-- ==== Sys2Proof/Word.lean ====
section
/-! DEFINITION. The widths of the hardware (R7, R8, R20, R35): what the spec numbers bit by bit is a bit vector of
that width, everything else is a natural number, a list or an inductive type. All values are unsigned (R8). -/

namespace Sys2Proof

/-- A byte: "an unsigned 8-bit value 0..255" (R8). -/
abbrev Byte := BitVec 8

/-- Half a byte, what one hex digit carries (R82, R110). -/
abbrev Nibble := BitVec 4

/-- An `arg_count` register or port, `ARGC_W` = 6 bits (R7, R22, R35). -/
abbrev ArgCount := BitVec 6

/-- `rx_len` and `stop_idx`, `LEN_W` = 9 bits (R7, R25, R28). -/
abbrev Index := BitVec 9

/-- The 256 bits of `txf_args` and `disp_args`: byte i is bits 8i+7 down to 8i (R35). -/
abbrev ArgPort := BitVec 256

end Sys2Proof
end

