-- ==== Sys2Proof/Config.lean ====
section
/-! DEFINITION. What is fixed for the machine: the ten parameters of R7 with the value this hardware takes, the
three lengths R7 derives from them, and the free values, which the spec leaves unspecified (U3, U5, R37). A free
value is a constant without a body: no proof can learn what it is. -/

namespace Sys2Proof

/-- The two cases `HEX_CASE` can take (R7, U2). -/
inductive HexCase where
  | upper
  | lower
  deriving DecidableEq, Repr

/-- The checksum functions `CHECKSUM_FN` can name (R7, U1): the one the spec makes normative. -/
inductive ChecksumFn where
  | xorFold
  deriving DecidableEq, Repr

namespace Config

/-- `CAPACITY`: capacity of the receive buffer in bytes (R7). -/
def capacity : Nat := 500

/-- `MAX_ARGS`: largest legal `arg_count` (R7). -/
def maxArgs : Nat := 32

/-- `START`, the start marker, the byte 0x3C (R7, R82). -/
def start : Byte := 0x3C

/-- `STOP`, the stop marker, the byte 0x3E (R7, R82). -/
def stop : Byte := 0x3E

/-- `HEX_CASE`: case of the letters HEXENC emits (R7, R110). -/
def hexCase : HexCase := .upper

/-- `CHECKSUM_FN`: the checksum function (R7, R112). -/
def checksumFn : ChecksumFn := .xorFold

/-- `FRAME_AGE_LIMIT`: none, a partial frame is never abandoned for its age (R7, R222). -/
def frameAgeLimit : Option Nat := none

/-- `RAW_MAX`: none, a SEND_BUFFER message has no greatest length (R7, U7). -/
def rawMax : Option Nat := none

/-- `LEN_W`: width of `rx_len` and `stop_idx` (R7). -/
def lenW : Nat := 9

/-- `ARGC_W`: width of an `arg_count` register (R7). -/
def argcW : Nat := 6

/-- `MIN_WIRE`: the shortest wire frame (R7, R81). -/
def minWire : Nat := 8

/-- `MAX_WIRE`: the longest wire frame (R7, R81). -/
def maxWire : Nat := 2 * (maxArgs + 3) + 2

/-- `MAX_SPAN`: the longest legal span between the markers (R7, R81). -/
def maxSpan : Nat := 2 * (maxArgs + 3)

/-- What `stop_idx` holds after the n-th time it becomes unspecified (R28, R37, U5; assumption 2). -/
opaque freeStopIdx : Nat → Index

/-- What `rx_err` holds after the n-th time it becomes unspecified (R29, R37, U5; assumption 2). -/
opaque freeRxErr : Nat → BitVec 2

/-- The `command` of a frame register after the n-th time it becomes unspecified (R22, R37, U5; assumption 2). -/
opaque freeCommand : Nat → Byte

/-- The `arg_count` of a frame register after the n-th time it becomes unspecified (R22, R37, U5; assumption 2). -/
opaque freeArgCount : Nat → ArgCount

/-- The `args` of a frame register after the n-th time it becomes unspecified (R22, R37, U5; assumption 2). -/
opaque freeArgs : Nat → List Byte

/-- The `checksum` of a frame register after the n-th time it becomes unspecified (R22, R37, U5; assumption 2). -/
opaque freeChecksum : Nat → Byte

/-- Byte i of the dispatch port at an index no argument of the frame has (U3, R35; assumption 3). -/
opaque freePortByte : Nat → Nat → Byte

end Config
end Sys2Proof
end

