-- ==== Sys2Proof/Syntax.lean ====
section
/-! DEFINITION. The operations of the hardware as data: `Instr`, one constructor per row of spec/opcode_table.json
(six byte classes, the wire frame, the sixteen operations of R6), the values they carry, and `Request`, the form in
which an operation stands before the hardware (a port transaction of R87, bytes on the wire, the driver's turn, or
one clocked sample of all input pins, R35). -/

namespace Sys2Proof

/-- `asm_state`: the six states of R27 and no others (U6). -/
inductive AsmState where
  | idle
  | scanning
  | collecting
  | decoding
  | dispatch
  | discard
  deriving DecidableEq, Repr

/-- The six byte classes of R82. -/
inductive ByteClass where
  | digit
  | start
  | stop
  | upper
  | lower
  | other
  deriving DecidableEq, Repr

/-- One byte row of the opcode table (R93): its pattern of bits and the range its field may take. -/
structure ByteRow where
  cls     : ByteClass
  mask    : Byte
  pattern : Byte
  least   : Nat
  most    : Nat
  deriving DecidableEq, Repr

/-- A Frame (R21): "the only domain entity"; `args` is the sequence of the argument bytes, as R21 asks a model to
hold it, so that the don't-care bytes of an `args` store do not exist (U3). -/
structure Frame where
  command  : Byte
  argCount : ArgCount
  args     : List Byte
  checksum : Byte
  deriving DecidableEq, Repr

/-- One hex digit on the wire: its value, and whether it is written as a lower-case letter (R82: DIGIT, UPPER,
LOWER). -/
structure HexDigit where
  value : Nibble
  small : Bool
  deriving DecidableEq, Repr

/-- A hex pair: "two consecutive hex-digit bytes that encode one byte" (R12, R83). -/
structure HexPair where
  first  : HexDigit
  second : HexDigit
  deriving DecidableEq, Repr

/-- The operations, one constructor per row of spec/opcode_table.json. -/
inductive Instr where
  /-- DIGIT (R82): a byte 0011vvvv arrives. -/
  | digit (v : Nibble)
  /-- START (R82): the byte `<` arrives. -/
  | start
  /-- STOP (R82): the byte `>` arrives. -/
  | stop
  /-- UPPER (R82): a byte 01000vvv arrives. -/
  | upper (v : BitVec 3)
  /-- LOWER (R82): a byte 01100vvv arrives. -/
  | lower (v : BitVec 3)
  /-- OTHER (R82): a byte of no other class arrives. -/
  | other (b : Byte)
  /-- FRAME (R80): a whole wire frame arrives, its fields given as the hex pairs on the wire. -/
  | frame (command argCount : HexPair) (args : List HexPair) (checksum : HexPair)
  /-- HEXENC (R110). -/
  | hexenc (b : Byte)
  /-- HEXDEC (R111). -/
  | hexdec (h l : Byte)
  /-- CHECKSUM (R112). -/
  | checksum (c : Byte) (n : ArgCount) (a : List Byte)
  /-- ENCODE (R113). -/
  | encode (f : Frame)
  /-- DECODE (R114). -/
  | decode (span : List Byte)
  /-- VALIDATE (R115). -/
  | validate (f : Frame)
  /-- A.SCAN (R141). -/
  | aScan
  /-- A.COLLECT (R142). -/
  | aCollect
  /-- A.DECODE (R143). -/
  | aDecode
  /-- A.DISPATCH (R144) with the host's answer `disp_ready`. -/
  | aDispatch (dispReady : Bool)
  /-- A.DISCARD (R145). -/
  | aDiscard
  /-- SEND_FRAME (R170): the data signals of a txf transaction (R87). -/
  | sendFrame (command : Byte) (argCount : ArgCount) (args : ArgPort)
  /-- SEND_BUFFER (R171): a run of consecutive txr transactions (R87). `bytes` are their `txr_data` in order,
  `last` is the `txr_last` of the final one, every earlier one having `txr_last` = 0. A whole message is a run with
  `last` = true; a run with `last` = false leaves the message open (R251). -/
  | sendBuffer (bytes : List Byte) (last : Bool)
  /-- INGEST (R190). -/
  | ingest (b : Byte)
  /-- TICK (R191): the start of a driver invocation, TICK.START. -/
  | tick
  /-- RESET (R240). -/
  | reset
  deriving DecidableEq, Repr

/-- An invocation of one of the six pure functions of FrameCodec, whose table encoding is `internal`. -/
inductive FnCall where
  | hexenc (b : Byte)
  | hexdec (h l : Byte)
  | checksum (c : Byte) (n : ArgCount) (a : List Byte)
  | encode (f : Frame)
  | decode (span : List Byte)
  | validate (f : Frame)
  deriving DecidableEq, Repr

/-- One sample of the input ports of R35 (clk apart). -/
structure Pins where
  rst         : Bool
  rxValid     : Bool
  rxData      : Byte
  tick        : Bool
  dispReady   : Bool
  txfValid    : Bool
  txfCommand  : Byte
  txfArgCount : ArgCount
  txfArgs     : ArgPort
  txrValid    : Bool
  txrData     : Byte
  txrLast     : Bool
  deriving DecidableEq, Repr

/-- How an operation stands before the hardware. All but the last are one transaction or one agent's turn (R61);
`cycle` is a clocked sample, in which several agents may have a transaction (R64, R172, R240). -/
inductive Request where
  /-- Bytes on the wire, in order of arrival at the rx port: what the byte and frame rows are read from (R93). -/
  | wire (bytes : List Byte)
  /-- `rx_valid` = 1 (R87). -/
  | rx (data : Byte)
  /-- `tick` = 1 (R87). -/
  | tick
  /-- The driver agent's turn: `asm_state` selects the micro-operation (R27, R87). -/
  | driver (dispReady : Bool)
  /-- `txf_valid` = 1 (R87). -/
  | txf (command : Byte) (argCount : ArgCount) (args : ArgPort)
  /-- A run of txr transactions (R87), as in `Instr.sendBuffer`. -/
  | txr (bytes : List Byte) (last : Bool)
  /-- `rst` = 1 (R87). -/
  | rst
  /-- A rule invokes a pure function (R87: "selected by the rule that invokes them"). -/
  | internal (call : FnCall)
  /-- A clocked sample of all input pins (R35). -/
  | cycle (pins : Pins)
  deriving DecidableEq, Repr

end Sys2Proof
end

