-- ==== Sys2Proof/WellFormed.lean ====
section
/-! DEFINITION. Which terms of `Instr` stand for an operation the spec admits: the constraints the opcode table puts
on each row's fields and each rule puts on its operands. -/

namespace Sys2Proof

/-- A decimal digit has no case: only the values 10..15 have a lower-case form (R82). -/
def HexDigit.wellFormed (d : HexDigit) : Bool := !d.small || 10 ≤ d.value.toNat

def HexPair.wellFormed (p : HexPair) : Bool := p.first.wellFormed && p.second.wellFormed

/-- The byte a hex pair carries: the first character is the high nibble (R56, R83). -/
def HexPair.value (p : HexPair) : Byte := p.first.value ++ p.second.value

/-- The byte is in none of the ranges of the first five classes of R82. -/
def isOtherByte (b : Byte) : Bool :=
  let c := b.toNat
  !((0x30 ≤ c && c ≤ 0x39) || c == 0x3C || c == 0x3E || (0x41 ≤ c && c ≤ 0x46) || (0x61 ≤ c && c ≤ 0x66))

/-- Every Frame has exactly `arg_count` argument bytes (R21). -/
def Frame.sized (f : Frame) : Bool := f.args.length == f.argCount.toNat

/-- No SEND_BUFFER message is longer than `RAW_MAX`, which this hardware leaves unbounded (R7, U7). -/
def withinRawMax (n : Nat) : Bool :=
  match Config.rawMax with
  | none => true
  | some m => n ≤ m

/-- The constraints of the opcode table's rows and of the rules' operands. -/
def Instr.wellFormed : Instr → Bool
  | .digit v => v.toNat ≤ 9
  | .start => true
  | .stop => true
  | .upper v => 1 ≤ v.toNat && v.toNat ≤ 6
  | .lower v => 1 ≤ v.toNat && v.toNat ≤ 6
  | .other b => isOtherByte b
  | .frame c n a k =>
    c.wellFormed && n.wellFormed && a.all HexPair.wellFormed && k.wellFormed
      && decide (n.value.toNat ≤ Config.maxArgs) && a.length == n.value.toNat
  | .hexenc _ => true
  | .hexdec _ _ => true
  | .checksum _ n a => n.toNat ≤ Config.maxArgs && n.toNat ≤ a.length
  | .encode f => f.sized
  | .decode s => s.length ≤ Config.capacity - 2
  | .validate f => f.sized && f.argCount.toNat ≤ Config.maxArgs
  | .aScan => true
  | .aCollect => true
  | .aDecode => true
  | .aDispatch _ => true
  | .aDiscard => true
  | .sendFrame _ _ _ => true
  | .sendBuffer m _ => !m.isEmpty && withinRawMax m.length
  | .ingest _ => true
  | .tick => true
  | .reset => true

/-- The operation is one the spec admits. -/
abbrev WellFormed (i : Instr) : Prop := i.wellFormed = true

end Sys2Proof
end

