-- ==== Sys2Proof/Decode.lean ====
section
/-! DEFINITION. From what stands before the hardware to the operation it selects, and back: the byte classes of R82
by the patterns of the opcode table, the wire frame of R80, the port formats of R87, the encoding of `asm_state` of
R27; and the encoder. Decoding is total and rejects by name. -/

namespace Sys2Proof

/-! ### Bytes -/

/-- Bits 7:4 of a byte. -/
def highNibble (b : Byte) : Nibble := b.extractLsb' 4 4

/-- Bits 3:0 of a byte. -/
def lowNibble (b : Byte) : Nibble := b.extractLsb' 0 4

/-- The first five byte rows of spec/opcode_table.json: class, mask, match, and the range of the field (R82, R93). -/
def byteRows : List ByteRow :=
  [ ⟨.digit, 0xF0, 0x30, 0, 9⟩, ⟨.start, 0xFF, 0x3C, 0, 0⟩, ⟨.stop, 0xFF, 0x3E, 0, 0⟩,
    ⟨.upper, 0xF8, 0x40, 1, 6⟩, ⟨.lower, 0xF8, 0x60, 1, 6⟩ ]

/-- The byte has the row's pattern, and its field (the bits outside the mask) is in the row's range. -/
def ByteRow.accepts (r : ByteRow) (b : Byte) : Bool :=
  (b &&& r.mask) == r.pattern && decide (r.least ≤ (b &&& ~~~r.mask).toNat)
    && decide ((b &&& ~~~r.mask).toNat ≤ r.most)

/-- The class of a byte; "a byte that matches none of the first five rows is OTHER" (R93). -/
def classify (b : Byte) : ByteClass :=
  match byteRows.find? (·.accepts b) with
  | some r => r.cls
  | none => .other

/-- The hex value column of R82. -/
def classHexValue (b : Byte) : Option Nibble :=
  match classify b with
  | .digit => some (lowNibble b)
  | .upper => some ((b.extractLsb' 0 3).setWidth 4 + 9)
  | .lower => some ((b.extractLsb' 0 3).setWidth 4 + 9)
  | .start => none
  | .stop => none
  | .other => none

/-- The byte row that a received byte is. -/
def decodeByte (b : Byte) : Instr :=
  match classify b with
  | .digit => .digit (lowNibble b)
  | .start => .start
  | .stop => .stop
  | .upper => .upper (b.extractLsb' 0 3)
  | .lower => .lower (b.extractLsb' 0 3)
  | .other => .other b

/-- The hex digit a byte of class DIGIT, UPPER or LOWER is. -/
def HexDigit.ofByte (b : Byte) : Option HexDigit :=
  match classHexValue b with
  | some v => some ⟨v, classify b == .lower⟩
  | none => none

/-! ### The wire frame (R80) -/

/-- Why a byte sequence is no wire frame (R85). -/
inductive FrameReject where
  | noStart
  | noStop
  | notHex
  | oddSpan
  | tooShort
  | argCountAboveMax
  | lengthMismatch
  deriving DecidableEq, Repr

/-- The bytes before the first STOP, and the bytes after it (R86). -/
def splitAtStop : List Byte → Option (List Byte × List Byte)
  | [] => none
  | b :: t =>
    if b = Config.stop then some ([], t)
    else match splitAtStop t with
      | some (span, rest) => some (b :: span, rest)
      | none => none

/-- A span read as hex digits. -/
def hexDigits : List Byte → Option (List HexDigit)
  | [] => some []
  | b :: t =>
    match HexDigit.ofByte b, hexDigits t with
    | some d, some ds => some (d :: ds)
    | _, _ => none

/-- Hex digits taken two by two. -/
def hexPairs : List HexDigit → Option (List HexPair)
  | [] => some []
  | [_] => none
  | h :: l :: t =>
    match hexPairs t with
    | some ps => some (⟨h, l⟩ :: ps)
    | none => none

/-- A span as the fields of a wire frame (R80, R86): the first two pairs are `command` and `arg_count` = N, then N
argument pairs, then the checksum pair, and nothing more. -/
def parseSpan (span : List Byte) : Except FrameReject Instr :=
  match hexDigits span with
  | none => .error .notHex
  | some ds =>
    match hexPairs ds with
    | none => .error .oddSpan
    | some (c :: n :: more) =>
      if Config.maxArgs < n.value.toNat then .error .argCountAboveMax
      else if more.length = n.value.toNat + 1 then
        match more.drop n.value.toNat with
        | [k] => .ok (.frame c n (more.take n.value.toNat) k)
        | _ => .error .lengthMismatch
      else .error .lengthMismatch
    | some _ => .error .tooShort

/-- A wire frame at the front of a byte sequence, and the bytes after it. -/
def parseFrame (bytes : List Byte) : Except FrameReject (Instr × List Byte) :=
  match bytes with
  | [] => .error .noStart
  | b :: t =>
    if b = Config.start then
      match splitAtStop t with
      | none => .error .noStop
      | some (span, rest) =>
        match parseSpan span with
        | .ok i => .ok (i, rest)
        | .error e => .error e
    else .error .noStart

/-- What stands first on the wire: a wire frame where there is one, else the row of the first byte. Every nonempty
byte sequence decodes (R93: "every byte sequence on the rx port ... has a defined result"). -/
def decodeWire (bytes : List Byte) : Option (Instr × List Byte) :=
  match bytes with
  | [] => none
  | b :: t =>
    match parseFrame (b :: t) with
    | .ok r => some r
    | .error _ => some (decodeByte b, t)

/-! ### Selection by `asm_state` and by the ports -/

/-- The encoding of `asm_state` (R27). -/
def AsmState.code : AsmState → BitVec 3
  | .idle => 0
  | .scanning => 1
  | .collecting => 2
  | .decoding => 3
  | .dispatch => 4
  | .discard => 5

/-- The state an `asm_state` value names; 6 and 7 name none (R27, U6). -/
def AsmState.ofCode (v : BitVec 3) : Option AsmState :=
  [AsmState.idle, .scanning, .collecting, .decoding, .dispatch, .discard].find? (·.code == v)

/-- The micro-operation `asm_state` selects; in Idle the driver agent has none (R27). -/
def microOp (a : AsmState) (dispReady : Bool) : Option Instr :=
  match a with
  | .idle => none
  | .scanning => some .aScan
  | .collecting => some .aCollect
  | .decoding => some .aDecode
  | .dispatch => some (.aDispatch dispReady)
  | .discard => some .aDiscard

def FnCall.instr : FnCall → Instr
  | .hexenc b => .hexenc b
  | .hexdec h l => .hexdec h l
  | .checksum c n a => .checksum c n a
  | .encode f => .encode f
  | .decode s => .decode s
  | .validate f => .validate f

/-- Why a request selects no single operation. -/
inductive DecodeReject where
  /-- No byte is on the wire. -/
  | emptyWire
  /-- A run of txr transactions without a transaction (R171: "an empty message cannot be expressed"). -/
  | emptyRun
  /-- The driver agent has no step in Idle (R27). -/
  | driverIdle
  /-- A clocked sample: its transactions are taken together (`State.sample` in Machine/Sample.lean). -/
  | clockedSample
  deriving DecidableEq, Repr

/-- The operation a request selects while `asm_state` is `a`, and what of the request is left after it (the bytes
behind the ones an operation read off the wire). -/
def decode (a : AsmState) (r : Request) : Except DecodeReject (Instr × Option Request) :=
  match r with
  | .wire bytes =>
    match decodeWire bytes with
    | none => .error .emptyWire
    | some (i, []) => .ok (i, none)
    | some (i, b :: rest) => .ok (i, some (.wire (b :: rest)))
  | .rx b => .ok (.ingest b, none)
  | .tick => .ok (.tick, none)
  | .driver ready =>
    match microOp a ready with
    | some i => .ok (i, none)
    | none => .error .driverIdle
  | .txf c n args => .ok (.sendFrame c n args, none)
  | .txr [] _ => .error .emptyRun
  | .txr (b :: m) last => .ok (.sendBuffer (b :: m) last, none)
  | .rst => .ok (.reset, none)
  | .internal call => .ok (call.instr, none)
  | .cycle _ => .error .clockedSample

/-- The bytes of a table word, the least significant byte first on the wire. -/
def wordBytes (nbits w : Nat) : List Byte :=
  (List.range ((nbits + 7) / 8)).map fun i => BitVec.ofNat 8 (w >>> (8 * i))

/-- The operation the decoder reads from a word of the opcode table. -/
def decodeTableWord (nbits w : Nat) : Option Instr :=
  match decode .idle (.wire (wordBytes nbits w)) with
  | .ok (i, _) => some i
  | .error _ => none

/-! ### The encoder -/

/-- The byte of a hex digit: DIGIT below ten, else a letter of the digit's case (R82). -/
def HexDigit.toByte (d : HexDigit) : Byte :=
  if d.value.toNat ≤ 9 then 0x30 + d.value.setWidth 8
  else if d.small then 0x61 + (d.value.setWidth 8 - 10)
  else 0x41 + (d.value.setWidth 8 - 10)

def HexPair.bytes (p : HexPair) : List Byte := [p.first.toByte, p.second.toByte]

/-- The wire form of a frame's hex pairs: START, the pairs in field order, STOP (R80). -/
def wireOfPairs (c n : HexPair) (args : List HexPair) (k : HexPair) : List Byte :=
  Config.start :: ((c :: n :: (args ++ [k])).flatMap HexPair.bytes ++ [Config.stop])

/-- The `asm_state` in which a driver request selects the operation; for every other operation any state would do. -/
def selectingState : Instr → AsmState
  | .aScan => .scanning
  | .aCollect => .collecting
  | .aDecode => .decoding
  | .aDispatch _ => .dispatch
  | .aDiscard => .discard
  | .digit _ => .idle
  | .start => .idle
  | .stop => .idle
  | .upper _ => .idle
  | .lower _ => .idle
  | .other _ => .idle
  | .frame _ _ _ _ => .idle
  | .hexenc _ => .idle
  | .hexdec _ _ => .idle
  | .checksum _ _ _ => .idle
  | .encode _ => .idle
  | .decode _ => .idle
  | .validate _ => .idle
  | .sendFrame _ _ _ => .idle
  | .sendBuffer _ _ => .idle
  | .ingest _ => .idle
  | .tick => .idle
  | .reset => .idle

/-- The request that stands for an operation: the encoding column of spec/opcode_table.json. -/
def encode : Instr → Request
  | .digit v => .wire [0x30 ||| v.setWidth 8]
  | .start => .wire [0x3C]
  | .stop => .wire [0x3E]
  | .upper v => .wire [0x40 ||| v.setWidth 8]
  | .lower v => .wire [0x60 ||| v.setWidth 8]
  | .other b => .wire [b]
  | .frame c n a k => .wire (wireOfPairs c n a k)
  | .hexenc b => .internal (.hexenc b)
  | .hexdec h l => .internal (.hexdec h l)
  | .checksum c n a => .internal (.checksum c n a)
  | .encode f => .internal (.encode f)
  | .decode s => .internal (.decode s)
  | .validate f => .internal (.validate f)
  | .aScan => .driver false
  | .aCollect => .driver false
  | .aDecode => .driver false
  | .aDispatch ready => .driver ready
  | .aDiscard => .driver false
  | .sendFrame c n a => .txf c n a
  | .sendBuffer m last => .txr m last
  | .ingest b => .rx b
  | .tick => .tick
  | .reset => .rst

end Sys2Proof
end

