-- ==== Sys2Proof/Machine/State.lean ====
section
/-! DEFINITION. The state: the seven elements of R20 (`rx_buf`, `rx_len`, `asm_state`, `stop_idx`, `rx_err`, `RXF`,
`TXF`), the bit `raw_open` of R251, the event lines `ev` and the transactions of the tx port of R35, the three traces
of R34, and three fields of the model's own (the result of the last pure function, the host's script, the count of free values drawn). -/

namespace Sys2Proof.Machine

/-- The five errors of R210. -/
inductive ErrorName where
  | conversionError
  | checksumMismatch
  | bufferOverflow
  | rxDrop
  | encodeError
  deriving DecidableEq, Repr

/-- One entry `(name, info)` of `ev_trace` (R34, R210): info is the number of bytes dropped, CAPACITY, the byte, or
the arg_count. -/
structure Event where
  error : ErrorName
  info  : Nat
  deriving DecidableEq, Repr

/-- What a byte row or a pure function answered, as a value (R82, R110 to R115). -/
inductive FnResult where
  /-- The class of a received byte and its hex value (R82). -/
  | byteClass (c : ByteClass) (v : Option Nibble)
  /-- The two characters of HEXENC (R110). -/
  | pair (h l : Byte)
  /-- The byte of HEXDEC or CHECKSUM (R111, R112). -/
  | byte (b : Byte)
  /-- The wire bytes of ENCODE (R113). -/
  | bytes (w : List Byte)
  /-- The Frame of DECODE (R114), or the one a wire frame's fields spell (R80). -/
  | frame (f : Frame)
  /-- VALIDATE's ok (R115). -/
  | ok
  /-- An error returned as a value: ConversionError, EncodeError or ChecksumMismatch (R111, R113, R114, R115). -/
  | error (e : ErrorName)
  deriving DecidableEq, Repr

/-- The receive buffer's cells, as pairs of index and byte, the indices strictly rising. A cell that is not listed
has no value: "MemRead has no value there" (R51, U4). -/
abbrev Memory := List Host.Cell

/-- Why the machine stops. Both are the `refuse` of R51 and of R54's precondition; both need a state no run from
reset reaches (`FramerInv` rules them out), and both are safe: the machine stops where the spec gives no value. -/
inductive Fault where
  /-- Raised by A.SCAN, A.COLLECT and A.DECODE when they read an index whose cell has no value (R51, U4). Safe. -/
  | noByteThere
  /-- Raised by A.DISPATCH and A.DISCARD when COMPACT(k) is asked for with k > `rx_len` (R54). Safe. -/
  | compactPastEnd
  deriving DecidableEq, Repr

/-- Why an operation has no meaning in the model. Safe. -/
inductive Refusal where
  /-- Raised by an arm of exec whose operation is not modelled (none is left). Safe. -/
  | notModelled (mnemonic : String)
  deriving DecidableEq, Repr

structure State where
  /-- `rx_buf[i]`, 8 bits each, i < CAPACITY (R20, R24). -/
  mem       : Memory
  /-- `rx_len`, the length counter (R25). -/
  rxLen     : Index
  /-- `asm_state` (R27). -/
  asm       : AsmState
  /-- `stop_idx` (R28). -/
  stopIdx   : Index
  /-- `rx_err`: 1 ConversionError, 2 ChecksumMismatch (R29). -/
  rxErr     : BitVec 2
  /-- `RXF`, the received frame register (R22). -/
  rxf       : Frame
  /-- `TXF`, the transmit frame register (R23). -/
  txf       : Frame
  /-- `raw_open`: a raw message is in progress (R20, R251). -/
  rawOpen   : Bool
  /-- `ev[4:0]`: the event lines in the transaction or clocked sample just completed (R35, R210; assumption 10). -/
  ev        : BitVec 5
  /-- `tx_valid`, `tx_data`: the bytes written to the output sink in the transaction or clocked sample just completed,
  one transaction of the tx port each, in order (R35, R173; assumption 10). -/
  txNow     : List Byte
  /-- `tx_stream`: all bytes written to the output sink, in order (R34). -/
  txStream  : List Byte
  /-- `disp_trace`: all frames handed to the collaborator, in order (R34). -/
  dispTrace : List Frame
  /-- `ev_trace`: all error events, in order (R34). -/
  evTrace   : List Event
  /-- The model's own: what the last byte row or pure function answered; no rule reads it (assumption 5). -/
  fnResult  : Option FnResult
  /-- The model's own: the requests the host has still to make, in the order it makes them (assumption 1). -/
  script    : List Request
  /-- The model's own: how many free values have been drawn (assumption 2). -/
  freeCount : Nat
  deriving DecidableEq, Repr

/-- A frame register with every field zero, what RXF and TXF hold in `State.reset` (assumption 4). -/
def zeroFrame : Frame := ⟨0, 0, [], 0⟩

/-- The machine right after its first RESET (R37, R243): buffer empty, Idle, event lines 0, transmit path idle. The
traces are empty, as at the start of every vector of 95_test_vectors.md; the registers R37 leaves unspecified hold
zero (assumption 4); the host has asked for nothing. -/
def State.reset : State :=
  { mem := [], rxLen := 0, asm := .idle, stopIdx := 0, rxErr := 0, rxf := zeroFrame, txf := zeroFrame,
    rawOpen := false, ev := 0, txNow := [], txStream := [], dispTrace := [], evTrace := [], fnResult := none, script := [],
    freeCount := 0 }

end Sys2Proof.Machine
end

