-- ==== Sys2Proof/Machine/Flags.lean ====
section
/-! DEFINITION. The hardware has no flags register (R31); what stands in its place are the event lines `ev[4:0]`:
the codes of R88 and R210 and the pulses they make. -/

namespace Sys2Proof.Machine

/-- The cause codes 1 to 5 (R88, R210). -/
def ErrorName.code : ErrorName → Nat
  | .conversionError => 1
  | .checksumMismatch => 2
  | .bufferOverflow => 3
  | .rxDrop => 4
  | .encodeError => 5

/-- "code c pulses bit c − 1 of the output `ev`" (R88). -/
def ErrorName.pulse (e : ErrorName) : BitVec 5 := (1 : BitVec 5) <<< (e.code - 1)

/-- A new transaction begins: a pulse lasts one transaction (R31, R210), and no byte has been written to the sink in
it yet (assumption 10). -/
def State.newTransaction (s : State) : State := { s with ev := 0, txNow := [] }

/-- Two transactions in one clocked sample: the lines the earlier one pulsed pulse with those of the later one (R216
(c)), and its bytes came first at the sink (assumption 10). -/
def State.pulsesAfter (t s : State) : State := { t with ev := s.ev ||| t.ev, txNow := s.txNow ++ t.txNow }

end Sys2Proof.Machine
end

