-- ==== Sys2Proof/Machine/Ops.lean ====
section
/-! DEFINITION. The named operations over the receive buffer and the registers: MemRead, APPEND, COMPACT, RESETBUF
(R50 to R55), `find` (R9), `raise` (R10, R217: what an error does, the hardware's exception entry; there is no
return from one, R218), `emit_tx` and `emit_dispatch` (R10), writes of `asm_state` and of the registers, and the
draws of unspecified values (R37). -/

namespace Sys2Proof.Machine

/-! ### The cells of the receive buffer -/

/-- The byte listed at an index, if one is. -/
def Memory.read (m : Memory) (a : Nat) : Option Byte :=
  match m with
  | [] => none
  | (k, v) :: t => if k = a then some v else Memory.read t a

/-- The cells with `v` at index `a`, the indices kept strictly rising. -/
def Memory.write (m : Memory) (a : Nat) (v : Byte) : Memory :=
  match m with
  | [] => [(a, v)]
  | (k, w) :: t =>
    if a < k then (a, v) :: (k, w) :: t
    else if a = k then (a, v) :: t
    else (k, w) :: Memory.write t a v

/-- The cells k..n−1 moved down by k; the others are gone (R54: "rx_buf[i] <- rx_buf[i + k]", and "the content of
cells at or above the new `rx_len` is unspecified afterwards", which is no value here, U4). -/
def Memory.shift (m : Memory) (k n : Nat) : Memory :=
  m.filterMap fun c => if k ≤ c.1 ∧ c.1 < n then some (c.1 - k, c.2) else none

/-- The canonical form: indices strictly rising. -/
abbrev Memory.Wf (m : Memory) : Prop := (m.map Prod.fst).Pairwise (· < ·)

/-- The same as a Bool. -/
def Memory.wf (m : Memory) : Bool := decide m.Wf

/-! ### Reading the receive buffer -/

/-- `MemRead(i, 1)`, "defined only for 0 ≤ i < `rx_len`" (R51). -/
def State.memRead (s : State) (i : Nat) : Option Byte :=
  if i < s.rxLen.toNat then s.mem.read i else none

/-- `rx_buf[i..i+n)` (R9), or none when one of those reads has no value. -/
def State.readRange (s : State) (i n : Nat) : Option (List Byte) :=
  match n with
  | 0 => some []
  | n + 1 =>
    match s.memRead i, State.readRange s (i + 1) n with
    | some b, some t => some (b :: t)
    | _, _ => none

/-- The receive buffer seen as a sequence, `rx_buf[0..rx_len)` (R9). -/
def State.buffer (s : State) : Option (List Byte) := s.readRange 0 s.rxLen.toNat

/-- `find(s, b, from)`: the least index ≥ from that holds b (R9). -/
def find (l : List Byte) (b : Byte) (from' : Nat) : Option Nat :=
  ((l.drop from').findIdx? (· == b)).map (· + from')

/-! ### Writing the receive buffer -/

/-- `APPEND(b)` (R53): the byte at index `rx_len`, then the counter; precondition `rx_len` < CAPACITY. -/
def State.append (s : State) (b : Byte) : State :=
  { s with mem := s.mem.write s.rxLen.toNat b, rxLen := s.rxLen + 1 }

/-- The effect of `COMPACT(k)` (R54) when its precondition holds. -/
def State.dropFront (s : State) (k : Nat) : State :=
  { s with mem := s.mem.shift k s.rxLen.toNat, rxLen := s.rxLen - BitVec.ofNat 9 k }

/-- `COMPACT(k)` with its precondition k ≤ `rx_len` (R54). -/
def State.compact (s : State) (k : Nat) : Except Fault State :=
  if k ≤ s.rxLen.toNat then .ok (s.dropFront k) else .error .compactPastEnd

/-- `RESETBUF` (R55). -/
def State.resetBuf (s : State) : State := { s with mem := [], rxLen := 0 }

/-! ### Errors, traces, registers -/

/-- `raise <Error>(info)` (R10, R210, R217): the entry of `ev_trace` and the pulse; nothing is saved, no mode
changes, and "what follows it in the rule still executes". -/
def State.raise (s : State) (e : ErrorName) (info : Nat) : State :=
  { s with evTrace := s.evTrace ++ [⟨e, info⟩], ev := s.ev ||| e.pulse }

/-- `emit_tx(s)` (R10): each byte is one transaction of the tx port, in order (R173). -/
def State.emitTx (s : State) (w : List Byte) : State :=
  { s with txStream := s.txStream ++ w, txNow := s.txNow ++ w }

/-- `emit_dispatch(f)` (R10). -/
def State.emitDispatch (s : State) (f : Frame) : State := { s with dispTrace := s.dispTrace ++ [f] }

/-- `asm_state <- a` (R10, R27). -/
def State.goto (s : State) (a : AsmState) : State := { s with asm := a }

/-- `stop_idx <- e` (R28). -/
def State.setStopIdx (s : State) (e : Nat) : State := { s with stopIdx := BitVec.ofNat 9 e }

/-- `rx_err <- c` (R29). -/
def State.setRxErr (s : State) (c : BitVec 2) : State := { s with rxErr := c }

/-- `RXF <- f` (R22). -/
def State.setRxf (s : State) (f : Frame) : State := { s with rxf := f }

/-- `TXF <- f` (R23). -/
def State.setTxf (s : State) (f : Frame) : State := { s with txf := f }

/-- `raw_open <- b` (R251). -/
def State.setRawOpen (s : State) (b : Bool) : State := { s with rawOpen := b }

/-- The value a byte row or a pure function answered. -/
def State.answer (s : State) (r : FnResult) : State := { s with fnResult := some r }

/-- The host has this left to ask for. -/
def State.setScript (s : State) (rs : List Request) : State := { s with script := rs }

/-! ### Values that become unspecified -/

/-- A frame register's unspecified content (R22, R23, U5). -/
def freeFrame (n : Nat) : Frame :=
  ⟨Config.freeCommand n, Config.freeArgCount n, Config.freeArgs n, Config.freeChecksum n⟩

/-- Leaving Dispatch: `stop_idx` and RXF are meaningful no more (R22, R28). -/
def State.forgetDispatched (s : State) : State :=
  { s with stopIdx := Config.freeStopIdx s.freeCount, rxf := freeFrame s.freeCount, freeCount := s.freeCount + 1 }

/-- Leaving Discard: `stop_idx` and `rx_err` are valid no more (R28, R29). -/
def State.forgetDiscarded (s : State) : State :=
  { s with stopIdx := Config.freeStopIdx s.freeCount, rxErr := Config.freeRxErr s.freeCount,
           freeCount := s.freeCount + 1 }

/-- RESET: "every other element of state becomes unspecified" (R240, R37). -/
def State.forgetAll (s : State) : State :=
  { s with stopIdx := Config.freeStopIdx s.freeCount, rxErr := Config.freeRxErr s.freeCount,
           rxf := freeFrame s.freeCount, txf := freeFrame (s.freeCount + 1), freeCount := s.freeCount + 2 }

end Sys2Proof.Machine
end

