-- ==== Sys2Proof/Machine/Operands.lean ====
section
/-! DEFINITION. The operand forms: the packed argument bits of the txf and dispatch ports (R35, R87), the fields a
wire frame's hex pairs spell (R80, R83), and the number of bytes a frame in hand takes (R144, R145). -/

namespace Sys2Proof.Machine

/-- Byte i of an argument port: "bits 8i+7 down to 8i" (R35, R87). -/
def argByte (args : ArgPort) (i : Nat) : Byte := args.extractLsb' (8 * i) 8

/-- The first n argument bytes of a port: args[i] for i < n (R87, R170). -/
def portArgs (args : ArgPort) (n : Nat) : List Byte := (List.range n).map (argByte args)

/-- The Frame that the fields of a wire frame spell (R80, R83): `arg_count`'s byte is kept in 6 bits. -/
def frameOfPairs (c n : HexPair) (args : List HexPair) (k : HexPair) : Frame :=
  ⟨c.value, n.value.setWidth 6, args.map HexPair.value, k.value⟩

/-- START, span and STOP of the frame in hand: "stop_idx + 1 bytes" (R144, R145). -/
def State.inHand (s : State) : Nat := s.stopIdx.toNat + 1

/-- The frame the dispatch port shows: the fields of RXF and its first arg_count bytes (R144). -/
def State.dispatched (s : State) : Frame := { s.rxf with args := s.rxf.args.take s.rxf.argCount.toNat }

end Sys2Proof.Machine
end

