-- ==== Sys2Proof/Machine/Codec.lean ====
section
/-! DEFINITION. FrameCodec (R110 to R117): the six pure functions, and the operations of the table's func rows.
They "read their operands, return a result, and touch no state"; the result is put where a claim can speak of it
(`fnResult`, the model's own field). -/

namespace Sys2Proof.Machine

/-! ### The functions -/

/-- `digit(v)` (R110), the letters in the case `HEX_CASE` names. -/
def hexChar (v : Nibble) : Byte :=
  if v.toNat ≤ 9 then 0x30 + v.setWidth 8
  else match Config.hexCase with
    | .upper => 0x41 + (v.setWidth 8 - 10)
    | .lower => 0x61 + (v.setWidth 8 - 10)

/-- HEXENC (R110): the high nibble gives the first character. -/
def hexEnc (b : Byte) : Byte × Byte := (hexChar (highNibble b), hexChar (lowNibble b))

/-- The two characters in order. -/
def hexBytes (b : Byte) : List Byte := [(hexEnc b).1, (hexEnc b).2]

/-- `hexval(c)` (R111). -/
def hexVal (c : Byte) : Option Nibble :=
  if 0x30 ≤ c.toNat ∧ c.toNat ≤ 0x39 then some (BitVec.ofNat 4 (c.toNat - 0x30))
  else if 0x41 ≤ c.toNat ∧ c.toNat ≤ 0x46 then some (BitVec.ofNat 4 (c.toNat - 0x41 + 10))
  else if 0x61 ≤ c.toNat ∧ c.toNat ≤ 0x66 then some (BitVec.ofNat 4 (c.toNat - 0x61 + 10))
  else none

/-- HEXDEC (R111); none is ConversionError. -/
def hexDec (h l : Byte) : Option Byte :=
  match hexVal h, hexVal l with
  | some a, some b => some (a ++ b)
  | _, _ => none

/-- CHECKSUM (R112): the fold of `command`, `arg_count` and the first arg_count bytes by `CHECKSUM_FN`. -/
def checksumOf (c : Byte) (n : ArgCount) (a : List Byte) : Byte :=
  match Config.checksumFn with
  | .xorFold => (a.take n.toNat).foldl (· ^^^ ·) (c ^^^ n.setWidth 8)

/-- ENCODE (R113); none is EncodeError. The checksum field is written as it is found. -/
def encodeFrame (f : Frame) : Option (List Byte) :=
  if f.argCount.toNat > Config.maxArgs then none
  else some ([Config.start] ++ hexBytes f.command ++ hexBytes (f.argCount.setWidth 8)
    ++ (f.args.take f.argCount.toNat).flatMap hexBytes ++ hexBytes f.checksum ++ [Config.stop])

/-- HEXDEC of the pair that starts at index i of a span; none where a character is missing or no hex digit. -/
def hexDecAt (s : List Byte) (i : Nat) : Option Byte :=
  match s[i]?, s[i + 1]? with
  | some h, some l => hexDec h l
  | _, _ => none

/-- The n hex pairs that start at index i of a span: the argument loop of DECODE (R114). -/
def decodeArgs (s : List Byte) (i n : Nat) : Option (List Byte) :=
  match n with
  | 0 => some []
  | n + 1 =>
    match hexDecAt s i, decodeArgs s (i + 2) n with
    | some b, some t => some (b :: t)
    | _, _ => none

/-- DECODE (R114), the checks (1) to (6) in the rule's order; none is ConversionError. -/
def decodeSpan (s : List Byte) : Option Frame :=
  if s.length < 6 ∨ s.length % 2 = 1 then none
  else match hexDecAt s 0, hexDecAt s 2 with
    | some c, some n =>
      if n.toNat > Config.maxArgs then none
      else if s.length ≠ 2 * (n.toNat + 3) then none
      else match decodeArgs s 4 n.toNat, hexDecAt s (4 + 2 * n.toNat) with
        | some a, some k => some ⟨c, n.setWidth 6, a, k⟩
        | _, _ => none
    | _, _ => none

/-- VALIDATE (R115): true is ok, false is ChecksumMismatch. -/
def validates (f : Frame) : Bool := f.checksum == checksumOf f.command f.argCount f.args

/-! ### The operations -/

/-- HEXENC (R110): no errors, total over all 256 bytes. -/
def execHexenc (b : Byte) (s : State) : Host.Outcome State Fault Refusal :=
  .next (s.answer (.pair (hexEnc b).1 (hexEnc b).2))

/-- HEXDEC (R111): ConversionError is "returned as a value"; no event is raised. -/
def execHexdec (h l : Byte) (s : State) : Host.Outcome State Fault Refusal :=
  match hexDec h l with
  | some b => .next (s.answer (.byte b))
  | none => .next (s.answer (.error .conversionError))

/-- CHECKSUM (R112). -/
def execChecksum (c : Byte) (n : ArgCount) (a : List Byte) (s : State) : Host.Outcome State Fault Refusal :=
  .next (s.answer (.byte (checksumOf c n a)))

/-- ENCODE (R113): EncodeError is "returned as a value; the event is raised by SEND_FRAME". -/
def execEncode (f : Frame) (s : State) : Host.Outcome State Fault Refusal :=
  match encodeFrame f with
  | some w => .next (s.answer (.bytes w))
  | none => .next (s.answer (.error .encodeError))

/-- DECODE (R114): "no partial Frame is produced". -/
def execDecode (span : List Byte) (s : State) : Host.Outcome State Fault Refusal :=
  match decodeSpan span with
  | some f => .next (s.answer (.frame f))
  | none => .next (s.answer (.error .conversionError))

/-- VALIDATE (R115). -/
def execValidate (f : Frame) (s : State) : Host.Outcome State Fault Refusal :=
  if validates f then .next (s.answer .ok) else .next (s.answer (.error .checksumMismatch))

end Sys2Proof.Machine
end

