-- ==== Sys2Proof/Machine/Assembler.lean ====
section
/-! DEFINITION. ReceiveAssembler (R140 to R150): the five micro-operations. A micro-operation whose `require` does
not hold is not enabled: "nothing changes" (R11). -/

namespace Sys2Proof.Machine

/-- A.SCAN (R141), resynchronisation: discard up to the first START. -/
def execAScan (s : State) : Host.Outcome State Fault Refusal :=
  if s.asm = .scanning then
    match s.buffer with
    | none => .fault .noByteThere
    | some buf =>
      match s.newTransaction.compact ((find buf Config.start 0).getD buf.length) with
      | .error e => .fault e
      | .ok t => if t.rxLen = 0 then .next (t.goto .idle) else .next (t.goto .collecting)
  else .next s

/-- A.COLLECT (R142), the frame-boundary detector: the first STOP after the START, else overflow of a full buffer,
else the tick ends and the partial frame stays. -/
def execACollect (s : State) : Host.Outcome State Fault Refusal :=
  if s.asm = .collecting then
    match s.buffer with
    | none => .fault .noByteThere
    | some buf =>
      match find buf Config.stop 1 with
      | some e => .next ((s.newTransaction.setStopIdx e).goto .decoding)
      | none =>
        if s.rxLen.toNat = Config.capacity then
          .next ((s.newTransaction.resetBuf.raise .bufferOverflow Config.capacity).goto .scanning)
        else .next (s.newTransaction.goto .idle)
  else .next s

/-- A.DECODE (R143): DECODE and VALIDATE of the span strictly between the markers; the buffer is not changed. -/
def execADecode (s : State) : Host.Outcome State Fault Refusal :=
  if s.asm = .decoding then
    match s.readRange 1 (s.stopIdx.toNat - 1) with
    | none => .fault .noByteThere
    | some span =>
      match decodeSpan span with
      | none => .next ((s.newTransaction.setRxErr 1).goto .discard)
      | some f =>
        if validates f then .next ((s.newTransaction.setRxf f).goto .dispatch)
        else .next ((s.newTransaction.setRxErr 2).goto .discard)
  else .next s

/-- A.DISPATCH (R144): enabled when the host answers `disp_ready` = 1; hand-over and compaction are one step. -/
def execADispatch (dispReady : Bool) (s : State) : Host.Outcome State Fault Refusal :=
  if s.asm = .dispatch ∧ dispReady = true then
    match (s.newTransaction.emitDispatch s.dispatched).compact s.inHand with
    | .error e => .fault e
    | .ok t => .next (t.forgetDispatched.goto .scanning)
  else .next s

/-- The error `rx_err` names: 1 is ConversionError, else ChecksumMismatch (R145). -/
def State.latchedError (s : State) : ErrorName :=
  if s.rxErr = 1 then .conversionError else .checksumMismatch

/-- A.DISCARD (R145): the error is raised, and START, span and STOP go. -/
def execADiscard (s : State) : Host.Outcome State Fault Refusal :=
  if s.asm = .discard then
    match (s.newTransaction.raise s.latchedError s.inHand).compact s.inHand with
    | .error e => .fault e
    | .ok t => .next (t.forgetDiscarded.goto .scanning)
  else .next s

end Sys2Proof.Machine
end

