-- ==== Sys2Proof/Machine/Driver.lean ====
section
/-! DEFINITION. The Driver Loop's TICK (R191) and the host's RESET (R240). INGEST stands in Machine/Receive.lean. -/

namespace Sys2Proof.Machine

/-- TICK.START (R191). A tick requested while a tick is in progress is ignored (R193). -/
def execTick (s : State) : Host.Outcome State Fault Refusal :=
  if s.asm = .idle then .next (s.newTransaction.goto .scanning) else .next s

/-- RESET (R240, R242): the buffer empty, Idle, the transmit path idle, `ev` 0, every other element of state
unspecified, the traces as they were. -/
def execReset (s : State) : Host.Outcome State Fault Refusal :=
  .next ((s.newTransaction.resetBuf.goto .idle).setRawOpen false).forgetAll

end Sys2Proof.Machine
end

