-- ==== Sys2Proof/Machine/Receive.lean ====
section
/-! DEFINITION. The input side of the receive buffer (R190): INGEST, the byte rows of the table (a received byte of
each class, R82) and the frame row (a received wire frame, R80, FEED of R90). -/

namespace Sys2Proof.Machine

/-- One rx transaction (R190): the byte is stored, or dropped with RxDrop when the buffer is full. The byte is not
looked at. -/
def State.receive (s : State) (b : Byte) : State :=
  if s.rxLen.toNat < Config.capacity then s.newTransaction.append b else s.newTransaction.raise .rxDrop b.toNat

/-- `FEED` (R90): one rx transaction for each byte, in order. -/
def State.feed (s : State) (bytes : List Byte) : State := bytes.foldl State.receive s

/-- A received byte with the reading R82 gives it. -/
def State.receiveRead (s : State) (b : Byte) : State :=
  (s.receive b).answer (.byteClass (classify b) (classHexValue b))

/-- DIGIT (R82): the byte 0011vvvv. -/
def execDigit (v : Nibble) (s : State) : Host.Outcome State Fault Refusal :=
  .next (s.receiveRead (0x30 ||| v.setWidth 8))

/-- START (R82): the byte `<`. -/
def execStart (s : State) : Host.Outcome State Fault Refusal := .next (s.receiveRead 0x3C)

/-- STOP (R82): the byte `>`. -/
def execStop (s : State) : Host.Outcome State Fault Refusal := .next (s.receiveRead 0x3E)

/-- UPPER (R82): the byte 01000vvv. -/
def execUpper (v : BitVec 3) (s : State) : Host.Outcome State Fault Refusal :=
  .next (s.receiveRead (0x40 ||| v.setWidth 8))

/-- LOWER (R82): the byte 01100vvv. -/
def execLower (v : BitVec 3) (s : State) : Host.Outcome State Fault Refusal :=
  .next (s.receiveRead (0x60 ||| v.setWidth 8))

/-- OTHER (R82): any remaining byte. -/
def execOther (b : Byte) (s : State) : Host.Outcome State Fault Refusal := .next (s.receiveRead b)

/-- FRAME (R80): the bytes of a wire frame arrive one after the other, with no other agent's step among them. -/
def execFrame (c n : HexPair) (args : List HexPair) (k : HexPair) (s : State) : Host.Outcome State Fault Refusal :=
  .next ((s.feed (wireOfPairs c n args k)).answer (.frame (frameOfPairs c n args k)))

/-- INGEST (R190): enabled in every state, and never waits. -/
def execIngest (b : Byte) (s : State) : Host.Outcome State Fault Refusal := .next (s.receive b)

end Sys2Proof.Machine
end

