-- ==== Sys2Proof/Machine/Transmit.lean ====
section
/-! DEFINITION. TransmitPath (R170 to R176): SEND_FRAME and SEND_BUFFER. No transmit operation reads or writes
receive-side state (R175). -/

namespace Sys2Proof.Machine

/-- The frame SEND_FRAME latches into TXF, its checksum computed (R170). -/
def txFrame (c : Byte) (n : ArgCount) (args : ArgPort) : Frame :=
  ⟨c, n, portArgs args n.toNat, checksumOf c n (portArgs args n.toNat)⟩

/-- SEND_FRAME (R170). While a raw message is in progress `txf_ready` = 0 and the request waits (R172, R251): it
stays among those the host makes. Otherwise an arg_count of 33..63 raises EncodeError and sends nothing, and any
other is latched, given its checksum, and written to the sink as one unit. -/
def execSendFrame (c : Byte) (n : ArgCount) (args : ArgPort) (s : State) : Host.Outcome State Fault Refusal :=
  if s.rawOpen = true then .next (s.setScript (s.script ++ [.txf c n args]))
  else match encodeFrame (txFrame c n args) with
    | none => .next (s.newTransaction.raise .encodeError n.toNat)
    | some w => .next ((s.newTransaction.setTxf (txFrame c n args)).emitTx w)

/-- SEND_BUFFER (R171, R251): the bytes verbatim; the transmit path belongs to the message until `txr_last`. "an
empty message cannot be expressed on the port and as an abstract operation writes nothing". -/
def execSendBuffer (bytes : List Byte) (last : Bool) (s : State) : Host.Outcome State Fault Refusal :=
  if bytes = [] then .next s else .next ((s.newTransaction.emitTx bytes).setRawOpen (!last))

end Sys2Proof.Machine
end

