-- ==== Sys2Proof/Machine/Dispatch.lean ====
section
/-! DEFINITION. The meaning of every operation, one arm per constructor of `Instr`. -/

namespace Sys2Proof.Machine

def exec (i : Instr) (s : State) : Host.Outcome State Fault Refusal :=
  match i with
  -- the byte rows (R82) and the frame row (R80)
  | .digit v => Sys2Proof.Machine.execDigit v s
  | .start => Sys2Proof.Machine.execStart s
  | .stop => Sys2Proof.Machine.execStop s
  | .upper v => Sys2Proof.Machine.execUpper v s
  | .lower v => Sys2Proof.Machine.execLower v s
  | .other b => Sys2Proof.Machine.execOther b s
  | .frame c n a k => Sys2Proof.Machine.execFrame c n a k s
  -- FrameCodec (R110 to R115)
  | .hexenc b => Sys2Proof.Machine.execHexenc b s
  | .hexdec h l => Sys2Proof.Machine.execHexdec h l s
  | .checksum c n a => Sys2Proof.Machine.execChecksum c n a s
  | .encode f => Sys2Proof.Machine.execEncode f s
  | .decode span => Sys2Proof.Machine.execDecode span s
  | .validate f => Sys2Proof.Machine.execValidate f s
  -- ReceiveAssembler (R141 to R145)
  | .aScan => Sys2Proof.Machine.execAScan s
  | .aCollect => Sys2Proof.Machine.execACollect s
  | .aDecode => Sys2Proof.Machine.execADecode s
  | .aDispatch ready => Sys2Proof.Machine.execADispatch ready s
  | .aDiscard => Sys2Proof.Machine.execADiscard s
  -- the ports (R170, R171, R190, R191, R240)
  | .sendFrame c n a => Sys2Proof.Machine.execSendFrame c n a s
  | .sendBuffer m last => Sys2Proof.Machine.execSendBuffer m last s
  | .ingest b => Sys2Proof.Machine.execIngest b s
  | .tick => Sys2Proof.Machine.execTick s
  | .reset => Sys2Proof.Machine.execReset s

end Sys2Proof.Machine
end

