-- ==== Sys2Proof/Machine/Ports.lean ====
section
/-! DEFINITION. The ports (R35): the output signals as functions of the state, and the transactions a clocked sample
of the input pins makes, in the order a clocked implementation gives them (R64, R172, R240). -/

namespace Sys2Proof.Machine

/-- The output ports of R35. The sink's transactions are those of the transaction or sample just completed: `txData`
has one byte for each of them, in order (R173; assumption 26). -/
structure Outputs where
  busy         : Bool
  dispValid    : Bool
  dispCommand  : Byte
  dispArgCount : ArgCount
  dispArgs     : ArgPort
  dispChecksum : Byte
  txfReady     : Bool
  txrReady     : Bool
  txValid      : Bool
  txData       : List Byte
  ev           : BitVec 5
  deriving DecidableEq, Repr

/-- Bytes packed as R35 packs them: byte i at bits 8i+7 down to 8i. -/
def packArgs (bytes : List Byte) : ArgPort :=
  match bytes with
  | [] => 0
  | b :: t => b.setWidth 256 ||| (packArgs t <<< 8)

/-- Byte i of `disp_args`: an argument, or unspecified at an index ≥ `disp_arg_count` (R35, U3). -/
def State.dispArgByte (s : State) (i : Nat) : Byte :=
  if i < s.rxf.argCount.toNat then s.rxf.args.getD i (Config.freePortByte s.freeCount i)
  else Config.freePortByte s.freeCount i

/-- The outputs while the inputs `rst` and `txf_valid` are as given (R35, R37, R172): `busy` = 1 exactly when
`asm_state` ≠ Idle, `disp_valid` = 1 exactly in Dispatch, the dispatch port shows RXF, `txf_ready` = 0 while a raw
message is in progress, `txr_ready` = 0 while a frame is being serialised, which here is the sample in which its
request is accepted (assumption 24), the ready outputs 0 while `rst` = 1, `ev` and `tx_valid` 0 during reset. -/
def State.outputs (s : State) (rst txfValid : Bool) : Outputs :=
  { busy := s.asm != .idle, dispValid := s.asm == .dispatch, dispCommand := s.rxf.command,
    dispArgCount := s.rxf.argCount, dispArgs := packArgs ((List.range 32).map s.dispArgByte),
    dispChecksum := s.rxf.checksum, txfReady := !rst && !s.rawOpen, txrReady := !rst && !(txfValid && !s.rawOpen),
    txValid := !rst && !s.txNow.isEmpty, txData := if rst then [] else s.txNow, ev := if rst then 0 else s.ev }

/-- The outputs in a clocked sample of the inputs. -/
def State.outputsAt (s : State) (p : Pins) : Outputs := s.outputs p.rst p.txfValid

/-- All transactions of the output sink so far: (`tx_valid`, `tx_data`) with `tx_valid` = 1, one for each byte of
`tx_stream`, in order (R173). -/
def State.sinkWrites (s : State) : List (Bool × Byte) := s.txStream.map fun b => (true, b)

/-- Whether the driver agent has a step in this sample: in Dispatch only with `disp_ready` = 1 (R87, R144). In every
other state but Idle it has one in every sample: that a micro-operation takes exactly one sample, where the spec gives
no cycle count (R254), is the model's choice (assumption 26). -/
def State.driverMoves (s : State) (dispReady : Bool) : Bool :=
  match s.asm with
  | .idle => false
  | .scanning => true
  | .collecting => true
  | .decoding => true
  | .dispatch => dispReady
  | .discard => true

/-- What the driver agent does in a sample: the micro-operation `asm_state` selects, or the start of a tick when Idle; a
tick while busy is ignored (R193). One micro-operation a sample is the model's choice (assumption 26). -/
def driverRequests (p : Pins) (s : State) : List Request :=
  if s.driverMoves p.dispReady then [.driver p.dispReady]
  else if p.tick && !(s.outputsAt p).busy then [.tick] else []

/-- The ingest agent's transaction in a sample (R87). -/
def ingestRequests (p : Pins) : List Request := if p.rxValid then [.rx p.rxData] else []

/-- The transmit path's transaction in a sample: where valid and ready are both 1 (R35, R87). The two ready outputs are
never both 1 while `txf_valid` = 1, so SEND_FRAME goes first (R172) and a raw byte that is not accepted waits for the
host to offer it again. -/
def transmitRequests (p : Pins) (s : State) : List Request :=
  (if p.txfValid && (s.outputsAt p).txfReady then [.txf p.txfCommand p.txfArgCount p.txfArgs] else [])
  ++ (if p.txrValid && (s.outputsAt p).txrReady then [.txr [p.txrData] p.txrLast] else [])

/-- The transactions of one clocked sample, in order. Under `rst` there is RESET and nothing else (R240). Otherwise
the driver first, then INGEST (R64), then the transmit path, whose place is the model's choice (assumption 19), as it
is that the driver completes one micro-operation in the sample (assumption 26). -/
def pinRequests (p : Pins) (s : State) : List Request :=
  if p.rst then [.rst] else driverRequests p s ++ ingestRequests p ++ transmitRequests p s

end Sys2Proof.Machine
end

