-- ==== Sys2Proof/Machine/Sample.lean ====
section
/-! DEFINITION. One clocked sample of the input pins: its transactions, one after the other, in one step. -/

namespace Sys2Proof.Machine

/-- One transaction more in the sample that has made s: the operation runs, and its pulses and its bytes at the sink
come beside those of the earlier transactions of the sample (R216 (c)). -/
def execInSample (i : Instr) (s : State) : Host.Outcome State Fault Refusal :=
  match exec i s.newTransaction with
  | .next t => .next (t.pulsesAfter s)
  | .fault r => .fault r
  | .refused r => .refused r

/-- Transactions of one sample, in order; a request that selects no operation changes nothing (R11). -/
def runSample (requests : List Request) (s : State) : Host.Outcome State Fault Refusal :=
  match requests with
  | [] => .next s
  | r :: rest =>
    match decode s.asm r with
    | .error _ => runSample rest s
    | .ok (i, _) =>
      match execInSample i s with
      | .next t => runSample rest t
      | .fault e => .fault e
      | .refused e => .refused e

/-- A clocked sample (R35): at its start no line pulses and no byte is at the sink. -/
def State.sample (s : State) (p : Pins) : Host.Outcome State Fault Refusal :=
  runSample (pinRequests p s) s.newTransaction

end Sys2Proof.Machine
end

