-- ==== Sys2Proof/Machine/Step.lean ====
section
/-! DEFINITION. One step: the next request of the host's script selects an operation and that operation runs. The
hardware fetches nothing (R30); the script, in State, is the schedule that R36 and R61 leave free. -/

namespace Sys2Proof.Machine

/-- What is left of the script after an operation was read off its first request. -/
def remaining (left : Option Request) (rest : List Request) : List Request :=
  match left with
  | none => rest
  | some r => r :: rest

/-- One step. With no request nothing happens (R196, R11); a clocked sample is taken off the
script and its transactions run; a request that selects no operation (the driver's turn in Idle, an empty wire, an
empty run) goes and changes nothing else (R11); any other is taken off the script and its operation runs. -/
def step (s : State) : Host.Outcome State Fault Refusal :=
  match s.script with
  | [] => .next s
  | .cycle p :: rest => (s.setScript rest).sample p
  | r :: rest =>
    match decode s.asm r with
    | .ok (i, left) => exec i (s.setScript (remaining left rest))
    | .error _ => .next (s.setScript rest)

/-- The word's bytes stand first on the wire, so that the next step reads and runs the operation they are. -/
def State.withFetchWord (s : State) (nbits w : Nat) : State :=
  s.setScript (.wire (wordBytes nbits w) :: s.script)

end Sys2Proof.Machine
end

