-- ==== Sys2Proof/Machine/Script.lean ====
section
/-! DEFINITION. The script notation of R89 and R90: the requests each pseudo-operation expands to, and a run of a
script. A script is executed "one operation per line ... one atomic step each, top to bottom". -/

namespace Sys2Proof.Machine

/-- `FEED` (R90): an INGEST for each byte, in order. -/
def feedRequests (bytes : List Byte) : List Request := bytes.map .rx

/-- The driver's turns of one tick over a buffer of at most n bytes, every dispatch answered at once: as many as
R194 allows. A turn left over falls in Idle and changes nothing. -/
def driverTurns (n : Nat) : List Request := List.replicate (4 * (n / 2) + 2) (.driver true)

/-- `TICK` (R89, R90) over a buffer of at most n bytes: TICK.START, then micro-operations until Idle. -/
def tickRequests (n : Nat) : List Request := .tick :: driverTurns n

/-- `FEED_TICK` (R90): "for each byte b: INGEST b then TICK", the buffer never above n bytes. -/
def feedTickRequests (bytes : List Byte) (n : Nat) : List Request :=
  bytes.flatMap fun b => .rx b :: tickRequests n

/-- The bytes of a string: the ASCII code of each character, first character first, no terminator (R8, R174). For a
character that has no ASCII code (above 0x7F) the spec gives no mapping (R174): the code point modulo 256 is the
model's choice (assumption 25). -/
def textBytes (text : String) : List Byte := text.toList.map fun c => BitVec.ofNat 8 c.toNat

/-- `SEND_TEXT` (R90): SEND_BUFFER of the bytes of the string. -/
def sendTextRequests (text : String) : List Request := [.txr (textBytes text) true]

/-- The run of a script from a state, one step for each request in it. -/
def State.runScript (s : State) (script : List Request) : Host.Outcome State Fault Refusal :=
  Host.Core.run Sys2Proof.core script.length (s.setScript script)

/-- A run is over (R255): every operation of the script has been taken, `asm_state` = Idle, and no dispatch or send
is pending. The buffer need not be empty. -/
abbrev State.RunOver (s : State) : Prop := s.script = [] ∧ s.asm = .idle ∧ s.rawOpen = false

/-- The final state of a run that is over (R255): the buffer as a sequence, `rx_len`, and the three traces. -/
def State.finalState (s : State) : Option (List Byte) × Index × List Byte × List Frame × List Event :=
  (s.buffer, s.rxLen, s.txStream, s.dispTrace, s.evTrace)

end Sys2Proof.Machine
end

