-- ==== Sys2Proof/Safety.lean ====
section
/-! DEFINITION. What claims about runs are said in: what the receive buffer holds, which part of the state belongs to
which side, and the invariant `FramerInv` that every step keeps (R21, R22, R26 to R29, R144). -/

namespace Sys2Proof.Machine

/-- The next state of an outcome, where it is one. -/
def nextOf (o : Host.Outcome State Fault Refusal) : Option State :=
  match o with
  | .next t => some t
  | .fault _ => none
  | .refused _ => none

/-- The receive buffer, seen through MemRead, is this sequence: `rx_buf[0..rx_len)` = buf (R9, R51). -/
def State.Holds (s : State) (buf : List Byte) : Prop :=
  s.rxLen.toNat = buf.length ∧ ∀ i, s.memRead i = buf[i]?

/-- A valid Frame (R21): arg_count ≤ 32, exactly arg_count arguments, checksum = CHECKSUM of the other fields. -/
def ValidFrame (f : Frame) : Prop :=
  f.argCount.toNat ≤ Config.maxArgs ∧ f.args.length = f.argCount.toNat ∧
    f.checksum = checksumOf f.command f.argCount f.args

/-- The registers of the receive side (R20, R175) are the same. -/
def SameReceive (s t : State) : Prop :=
  t.mem = s.mem ∧ t.rxLen = s.rxLen ∧ t.asm = s.asm ∧ t.stopIdx = s.stopIdx ∧ t.rxErr = s.rxErr ∧ t.rxf = s.rxf

/-- The registers of the transmit side and what it has sent (R20, R175) are the same. -/
def SameTransmit (s t : State) : Prop :=
  t.txf = s.txf ∧ t.rawOpen = s.rawOpen ∧ t.txStream = s.txStream

/-- The traces of the receive side and of the errors are the same. -/
def SameDispatchAndEvents (s t : State) : Prop := t.dispTrace = s.dispTrace ∧ t.evTrace = s.evTrace

/-- What the host has still to ask for, and the count of free values, are the same (both the model's own). -/
def SameHost (s t : State) : Prop := t.script = s.script ∧ t.freeCount = s.freeCount

/-- `asm_state`, `stop_idx`, `rx_err` and RXF: the receive side without its buffer (R20). -/
def SameAssembler (s t : State) : Prop :=
  t.asm = s.asm ∧ t.stopIdx = s.stopIdx ∧ t.rxErr = s.rxErr ∧ t.rxf = s.rxf

/-- What one rx transaction with the byte b makes of s (R190, R53, R214): below CAPACITY the byte stands at index
`rx_len` and the counter is one higher; at CAPACITY or above RxDrop is raised and the buffer stays. In both cases
every other byte reads as before and nothing else changes, apart from `fnResult`, of which this says nothing. -/
def Received (s t : State) (b : Byte) : Prop :=
  (s.rxLen.toNat < Config.capacity →
    t.rxLen.toNat = s.rxLen.toNat + 1 ∧ t.memRead s.rxLen.toNat = some b ∧
      (∀ a, a ≠ s.rxLen.toNat → t.memRead a = s.memRead a) ∧ t.evTrace = s.evTrace ∧ t.ev = 0) ∧
  (Config.capacity ≤ s.rxLen.toNat →
    t.rxLen = s.rxLen ∧ (∀ a, t.memRead a = s.memRead a) ∧
      t.evTrace = s.evTrace ++ [⟨.rxDrop, b.toNat⟩] ∧ t.ev = 0b01000) ∧
  t.txNow = [] ∧ SameAssembler s t ∧ SameTransmit s t ∧ t.dispTrace = s.dispTrace ∧ SameHost s t

/-- What the transaction an agent makes in a clocked sample, or none, makes of s: the operation runs with no line
pulsing and no byte at the sink, and its pulses and bytes come beside those of the sample's earlier transactions (R216
(c), R173). -/
def Took (o : Option Instr) (s t : State) : Prop :=
  match o with
  | none => t = s
  | some i => ∃ u, exec i { s with ev := 0, txNow := [] } = .next u ∧
      t = { u with ev := s.ev ||| u.ev, txNow := s.txNow ++ u.txNow }

/-- A request of a receive-side schedule: a byte on the rx port, a tick, or the driver's turn, in which the host
answers a waiting dispatch or lets it wait (R61, R144, R149). -/
def ReceiveRequest (r : Request) : Prop := (∃ b, r = .rx b) ∨ r = .tick ∨ ∃ ready, r = .driver ready

/-- Along the run of the script from s, `rx_len` never reaches CAPACITY (R149 (d)). -/
def StaysBelowCapacity (s : State) (script : List Request) : Prop :=
  ∀ k t, Host.Core.run Sys2Proof.core k (s.setScript script) = .next t → t.rxLen.toNat < Config.capacity

/-- The byte an rx request brings. -/
def rxByte (r : Request) : Option Byte :=
  match r with
  | .rx b => some b
  | .wire _ => none
  | .tick => none
  | .driver _ => none
  | .txf _ _ _ => none
  | .txr _ _ => none
  | .rst => none
  | .internal _ => none
  | .cycle _ => none

/-- What ends a schedule over n bytes: the tick in progress, if one is, runs to its end, and one more tick after
it. -/
def finishingRequests (n : Nat) : List Request := driverTurns n ++ tickRequests n

/-- The span spells the Frame (R80, R83): two pairs for `command` and `arg_count`, a pair for each argument, a pair
for `checksum`, and nothing more. -/
def Spells (span : List Byte) (f : Frame) : Prop :=
  f.argCount.toNat ≤ Config.maxArgs ∧ f.args.length = f.argCount.toNat ∧
    span.length = 2 * (f.argCount.toNat + 3) ∧ hexDecAt span 0 = some f.command ∧
    hexDecAt span 2 = some (f.argCount.setWidth 8) ∧
    (∀ i, i < f.argCount.toNat → hexDecAt span (4 + 2 * i) = f.args[i]?) ∧
    hexDecAt span (4 + 2 * f.argCount.toNat) = some f.checksum

/-- A wire frame without its markers: "w without its first and last byte" (R116). -/
def spanOf (w : List Byte) : List Byte := (w.drop 1).dropLast

/-- The span with bit b of byte i flipped (R116 (b)). -/
def flipBit (span : List Byte) (i b : Nat) : List Byte := span.modify i (· ^^^ (1 <<< b))

/-- Every cell below `rx_len` holds a byte and no cell is listed above it (R24, U4), and 0 ≤ `rx_len` ≤ CAPACITY
(R26). -/
def BufferOk (s : State) : Prop :=
  s.mem.map Prod.fst = List.range s.rxLen.toNat ∧ s.rxLen.toNat ≤ Config.capacity

/-- `stop_idx` is valid (R28): 1 ≤ stop_idx < rx_len, rx_buf[0] = START, rx_buf[stop_idx] = STOP, and no STOP
between. -/
def StopIdxOk (s : State) : Prop :=
  1 ≤ s.stopIdx.toNat ∧ s.stopIdx.toNat < s.rxLen.toNat ∧ s.memRead 0 = some Config.start ∧
    s.memRead s.stopIdx.toNat = some Config.stop ∧
    ∀ i, 1 ≤ i → i < s.stopIdx.toNat → s.memRead i ≠ some Config.stop

/-- The span in hand (R12, R143): `rx_buf[1..stop_idx)`. -/
def State.span (s : State) : Option (List Byte) := s.readRange 1 (s.stopIdx.toNat - 1)

/-- The machine's invariant. -/
structure FramerInv (s : State) : Prop where
  /-- R24, R26. -/
  buffer : BufferOk s
  /-- R27: in Collecting `rx_buf[0]` = START. -/
  collecting : s.asm = .collecting → s.memRead 0 = some Config.start
  /-- R28: in Decoding, Dispatch and Discard `stop_idx` is valid. -/
  stopIdx : s.asm = .decoding ∨ s.asm = .dispatch ∨ s.asm = .discard → StopIdxOk s
  /-- R22, R144: in Dispatch RXF is a valid Frame, the one the span in hand decodes to. -/
  dispatch : s.asm = .dispatch → ValidFrame s.rxf ∧ ∃ span, s.span = some span ∧ decodeSpan span = some s.rxf
  /-- R29: in Discard `rx_err` is 1 where the span in hand does not decode, 2 where it decodes to a Frame that
  VALIDATE does not accept. -/
  discard : s.asm = .discard → ∃ span, s.span = some span ∧
    ((s.rxErr = 1 ∧ decodeSpan span = none) ∨
      (s.rxErr = 2 ∧ ∃ f, decodeSpan span = some f ∧ validates f = false))
  /-- R144, R244: only valid Frames have been handed over. -/
  handed : ∀ f ∈ s.dispTrace, ValidFrame f

/-- Quiescent with an empty buffer (R12, R149). -/
def QuiescentEmpty (s : State) : Prop := FramerInv s ∧ s.asm = .idle ∧ s.rxLen = 0

/-- A quiescent buffer (R147): empty, or a partial frame with no STOP after its START and room left. -/
def QuiescentShape (buf : List Byte) : Prop :=
  buf = [] ∨ (buf.head? = some Config.start ∧ Config.stop ∉ buf.drop 1 ∧ buf.length < Config.capacity)

end Sys2Proof.Machine
end

