-- ==== Sys2Proof/Certificates/Slice0/Obligations.lean ====
section
/-! DEFINITION. The statements for the provers, each a `def Obligations.<Name> : Prop`; OBLIGATIONS.json lists them.
A statement about a byte of memory speaks of `State.memRead`, the model's MemRead (R51); `State.Holds s buf` says
that `rx_buf[0..rx_len)` is the sequence buf. -/

open Sys2Proof Sys2Proof.Machine

/-! ### Reset -/

/-- The reset state has the values R37 gives. The empty traces, the empty script and the zeros of the registers R37
leaves unspecified are the model's (assumptions 1 and 4), and nothing is said of them here. -/
def Obligations.ResetStateHasSpecifiedValues : Prop :=
  State.reset.rxLen = 0 ∧ State.reset.asm = .idle ∧ (∀ i, State.reset.memRead i = none) ∧
    State.reset.ev = 0 ∧ State.reset.rawOpen = false ∧ State.reset.mem.Wf ∧
    (State.reset.outputs false false).busy = false ∧ (State.reset.outputs false false).dispValid = false ∧
    (State.reset.outputs false false).txValid = false ∧
    (State.reset.outputs true false).txfReady = false ∧ (State.reset.outputs true false).txrReady = false

/-- R240: RESET from any state, and alone in its cycle. What RESET leaves in `stop_idx`, `rx_err`, RXF and TXF is
unspecified (R37): nothing is said of them. -/
def Obligations.ResetEmptiesAndIdles : Prop :=
  ∀ s : State, (∃ t, exec .reset s = .next t ∧ t.rxLen = 0 ∧ t.asm = .idle ∧ (∀ i, t.memRead i = none) ∧
      t.rawOpen = false ∧ t.ev = 0 ∧
      (t.outputs false false).busy = false ∧ (t.outputs false false).dispValid = false ∧
      (t.outputs false false).txValid = false ∧ (t.outputs false false).txData = [] ∧
      t.txStream = s.txStream ∧ t.dispTrace = s.dispTrace ∧ t.evTrace = s.evTrace ∧
      t.fnResult = s.fnResult ∧ t.script = s.script) ∧
    (∀ p : Pins, p.rst = true → pinRequests p s = [.rst]) ∧
    ∀ v, (s.outputs true v).txfReady = false ∧ (s.outputs true v).txrReady = false ∧ (s.outputs true v).ev = 0 ∧
      (s.outputs true v).txValid = false

/-! ### The receive buffer's input side -/

/-- R190: INGEST, below capacity and at it, in every state. -/
def Obligations.IngestStoresOrDrops : Prop :=
  ∀ (s : State) (b : Byte), ∃ t, exec (.ingest b) s = .next t ∧ Received s t b ∧ t.fnResult = s.fnResult

/-- R82: the six classes by their ranges, each byte in exactly one, with the hex value column; `hexval` (R111)
agrees. -/
def Obligations.ByteClassesByRange : Prop :=
  ∀ b : Byte,
    (classify b = .digit ↔ 0x30 ≤ b.toNat ∧ b.toNat ≤ 0x39) ∧ (classify b = .start ↔ b = 0x3C) ∧
    (classify b = .stop ↔ b = 0x3E) ∧ (classify b = .upper ↔ 0x41 ≤ b.toNat ∧ b.toNat ≤ 0x46) ∧
    (classify b = .lower ↔ 0x61 ≤ b.toNat ∧ b.toNat ≤ 0x66) ∧
    (classify b = .digit → (classHexValue b).map BitVec.toNat = some (b.toNat - 0x30)) ∧
    (classify b = .upper → (classHexValue b).map BitVec.toNat = some (b.toNat - 0x41 + 10)) ∧
    (classify b = .lower → (classHexValue b).map BitVec.toNat = some (b.toNat - 0x61 + 10)) ∧
    (classify b = .start ∨ classify b = .stop ∨ classify b = .other → classHexValue b = none) ∧
    hexVal b = classHexValue b

/-- The six byte rows (R82) as received bytes (R190): each stores its byte, whatever its class, and answers the
class and the hex value. That a byte row is an rx transaction, and the answer in `fnResult`, are the model's reading
(assumptions 5 and 6). -/
def Obligations.ByteRowsStoreTheirByte : Prop :=
  ∀ s : State,
    (∀ v : Nibble, v.toNat ≤ 9 → ∃ t b, exec (.digit v) s = .next t ∧ b.toNat = 0x30 + v.toNat ∧ Received s t b ∧
      t.fnResult = some (.byteClass .digit (some v))) ∧
    (∃ t, exec .start s = .next t ∧ Received s t 0x3C ∧ t.fnResult = some (.byteClass .start none)) ∧
    (∃ t, exec .stop s = .next t ∧ Received s t 0x3E ∧ t.fnResult = some (.byteClass .stop none)) ∧
    (∀ v : BitVec 3, 1 ≤ v.toNat → v.toNat ≤ 6 → ∃ t b h, exec (.upper v) s = .next t ∧ b.toNat = 0x40 + v.toNat ∧
      h.toNat = v.toNat + 9 ∧ Received s t b ∧ t.fnResult = some (.byteClass .upper (some h))) ∧
    (∀ v : BitVec 3, 1 ≤ v.toNat → v.toNat ≤ 6 → ∃ t b h, exec (.lower v) s = .next t ∧ b.toNat = 0x60 + v.toNat ∧
      h.toNat = v.toNat + 9 ∧ Received s t b ∧ t.fnResult = some (.byteClass .lower (some h))) ∧
    (∀ b : Byte, isOtherByte b = true → ∃ t, exec (.other b) s = .next t ∧ Received s t b ∧
      t.fnResult = some (.byteClass .other none))

/-- R80: a wire frame that arrives with room for it stands in the buffer behind what was there, position by
position, and its fields are answered. That the row is the arrival of the frame, and the answer in `fnResult`, are the
model's reading (assumptions 5 and 6). -/
def Obligations.FrameArrivesByPosition : Prop :=
  ∀ (c n : HexPair) (a : List HexPair) (k : HexPair) (s : State) (buf : List Byte),
    WellFormed (.frame c n a k) → s.Holds buf →
    buf.length + (2 * (n.value.toNat + 3) + 2) ≤ Config.capacity →
    ∃ t w f, exec (.frame c n a k) s = .next t ∧ t.Holds (buf ++ w) ∧
      w.length = 2 * (n.value.toNat + 3) + 2 ∧ w[0]? = some Config.start ∧
      hexDecAt w 1 = some c.value ∧ hexDecAt w 3 = some n.value ∧
      (∀ i, i < n.value.toNat → hexDecAt w (5 + 2 * i) = (a[i]?).map HexPair.value) ∧
      hexDecAt w (5 + 2 * n.value.toNat) = some k.value ∧ w[7 + 2 * n.value.toNat]? = some Config.stop ∧
      t.fnResult = some (.frame f) ∧ f.command = c.value ∧ f.argCount.toNat = n.value.toNat ∧
      f.args = a.map HexPair.value ∧ f.checksum = k.value ∧
      (∀ i, i < buf.length → t.memRead i = s.memRead i) ∧ t.ev = 0 ∧ t.txNow = [] ∧
      SameAssembler s t ∧ SameTransmit s t ∧ SameDispatchAndEvents s t ∧ SameHost s t

/-- A wire frame that arrives is an INGEST for each of its bytes, in order, whatever room there is (FEED, R90); the
model reads the frame row so (assumption 6). -/
def Obligations.FrameIsIngestOfEachByte : Prop :=
  ∀ (c n : HexPair) (a : List HexPair) (k : HexPair) (s : State),
    ∃ t, exec (.frame c n a k) s = .next t ∧
      ∃ states : List State, states[0]? = some s ∧
        states[(wireOfPairs c n a k).length]? = some { t with fnResult := s.fnResult } ∧
        ∀ i b, (wireOfPairs c n a k)[i]? = some b →
          ∃ u v, states[i]? = some u ∧ states[i + 1]? = some v ∧ exec (.ingest b) u = .next v

/-! ### FrameCodec -/

/-- R110: HEXENC's two characters, high nibble first, upper case, over all bytes; nothing but the answer changes. -/
def Obligations.HexencGivesUpperCaseDigits : Prop :=
  ∀ (b : Byte) (s : State), ∃ h l : Byte,
    exec (.hexenc b) s = .next { s with fnResult := some (.pair h l) } ∧
    (b.toNat / 16 ≤ 9 → h.toNat = 0x30 + b.toNat / 16) ∧
    (10 ≤ b.toNat / 16 → h.toNat = 0x41 + (b.toNat / 16 - 10)) ∧
    (b.toNat % 16 ≤ 9 → l.toNat = 0x30 + b.toNat % 16) ∧
    (10 ≤ b.toNat % 16 → l.toNat = 0x41 + (b.toNat % 16 - 10)) ∧
    (classify h = .digit ∨ classify h = .upper) ∧ (classify l = .digit ∨ classify l = .upper) ∧
    hexDec h l = some b

/-- R111: HEXDEC is 16 · hexval(h) + hexval(l) where both characters are hex digits of either case, and
ConversionError, as a value, where one is not; no event is raised and nothing but the answer changes. -/
def Obligations.HexdecDecodesOrFails : Prop :=
  ∀ (h l : Byte) (s : State),
    (∀ x y, hexVal h = some x → hexVal l = some y → ∃ b : Byte, b.toNat = 16 * x.toNat + y.toNat ∧
      exec (.hexdec h l) s = .next { s with fnResult := some (.byte b) }) ∧
    (hexVal h = none ∨ hexVal l = none →
      exec (.hexdec h l) s = .next { s with fnResult := some (.error .conversionError) }) ∧
    (hexVal h = none ↔ ¬ ((0x30 ≤ h.toNat ∧ h.toNat ≤ 0x39) ∨ (0x41 ≤ h.toNat ∧ h.toNat ≤ 0x46) ∨
      (0x61 ≤ h.toNat ∧ h.toNat ≤ 0x66)))

/-- R112: bit j of CHECKSUM is the exclusive-or of bit j of `command`, of `arg_count` and of the first arg_count
argument bytes; later bytes do not enter; nothing but the answer changes. -/
def Obligations.ChecksumIsXorFold : Prop :=
  ∀ (c : Byte) (n : ArgCount) (a : List Byte) (s : State), n.toNat ≤ Config.maxArgs → n.toNat ≤ a.length →
    ∃ x : Byte, exec (.checksum c n a) s = .next { s with fnResult := some (.byte x) } ∧
      (∀ j, j < 8 → (x.getLsbD j = true ↔
        ((if c.getLsbD j then 1 else 0) + (if n.getLsbD j then 1 else 0)
          + ((a.take n.toNat).countP fun b => b.getLsbD j)) % 2 = 1)) ∧
      (n = 0 → x = c)

/-- R113: ENCODE, field by field; a START first, a STOP last and only DIGIT and UPPER bytes between; EncodeError, as
a value, above 32 arguments; nothing but the answer changes. -/
def Obligations.EncodeWritesTheWireFrame : Prop :=
  ∀ (f : Frame) (s : State), f.args.length = f.argCount.toNat →
    (f.argCount.toNat ≤ Config.maxArgs → ∃ w,
      exec (.encode f) s = .next { s with fnResult := some (.bytes w) } ∧
      w.length = 2 * (f.argCount.toNat + 3) + 2 ∧ w.head? = some Config.start ∧ w.getLast? = some Config.stop ∧
      hexDecAt w 1 = some f.command ∧ hexDecAt w 3 = some (f.argCount.setWidth 8) ∧
      (∀ i, i < f.argCount.toNat → hexDecAt w (5 + 2 * i) = f.args[i]?) ∧
      hexDecAt w (5 + 2 * f.argCount.toNat) = some f.checksum ∧
      (∀ b ∈ spanOf w, classify b = .digit ∨ classify b = .upper)) ∧
    (Config.maxArgs < f.argCount.toNat →
      exec (.encode f) s = .next { s with fnResult := some (.error .encodeError) })

/-- R114: DECODE answers a Frame exactly where the span spells it, and ConversionError, as a value, where it spells
none; nothing but the answer changes. -/
def Obligations.DecodeAcceptsExactlySpelledFrames : Prop :=
  ∀ (span : List Byte) (s : State),
    (∀ f, Spells span f → exec (.decode span) s = .next { s with fnResult := some (.frame f) }) ∧
    ((∀ f, ¬ Spells span f) →
      exec (.decode span) s = .next { s with fnResult := some (.error .conversionError) }) ∧
    (∀ f g, Spells span f → Spells span g → f = g)

/-- R115: VALIDATE is ok exactly where the checksum field is CHECKSUM of the others; nothing but the answer
changes. -/
def Obligations.ValidateComparesChecksum : Prop :=
  ∀ (f : Frame) (s : State),
    (f.checksum = checksumOf f.command f.argCount f.args →
      exec (.validate f) s = .next { s with fnResult := some .ok }) ∧
    (f.checksum ≠ checksumOf f.command f.argCount f.args →
      exec (.validate f) s = .next { s with fnResult := some (.error .checksumMismatch) }) ∧
    (f.argCount = 0 → (f.checksum = checksumOf f.command f.argCount f.args ↔ f.checksum = f.command))

/-- R116 (a): DECODE of the span of ENCODE gives the Frame back, valid or not, and a valid one passes VALIDATE. -/
def Obligations.DecodeOfEncodeIsTheFrame : Prop :=
  ∀ f : Frame, f.argCount.toNat ≤ Config.maxArgs → f.args.length = f.argCount.toNat →
    ∃ w, encodeFrame f = some w ∧ decodeSpan (spanOf w) = some f ∧ (ValidFrame f → validates f = true)

/-- R116 (b): of all single-bit flips of the span of a valid Frame, only the flip of bit 5 of an upper-case letter
is accepted, and it is accepted with the same Frame. -/
def Obligations.SingleBitFlipsAreCaught : Prop :=
  ∀ (f : Frame) (w : List Byte) (i b : Nat) (g : Frame), ValidFrame f → encodeFrame f = some w →
    i < (spanOf w).length → b < 8 → decodeSpan (flipBit (spanOf w) i b) = some g → validates g = true →
    g = f ∧ b = 5 ∧ ((spanOf w)[i]?).map classify = some .upper

/-- R116 (c): ENCODE is injective on Frames of at most 32 arguments. -/
def Obligations.EncodeIsInjective : Prop :=
  ∀ f g : Frame, f.args.length = f.argCount.toNat → g.args.length = g.argCount.toNat →
    f.argCount.toNat ≤ Config.maxArgs → encodeFrame f = encodeFrame g → f = g

/-- R252: the checksum does not see the order of the arguments. -/
def Obligations.ChecksumIgnoresArgumentOrder : Prop :=
  ∀ (c : Byte) (n : ArgCount) (a b : List Byte), (a.take n.toNat).Perm (b.take n.toNat) →
    checksumOf c n a = checksumOf c n b

/-! ### ReceiveAssembler -/

/-- R141: A.SCAN drops what stands before the first START and goes on to Collecting, or drops everything and ends the
tick; nothing else changes, and no event is raised. -/
def Obligations.ScanResynchronises : Prop :=
  ∀ (s : State) (buf : List Byte), s.asm = .scanning → s.Holds buf →
    ∃ t, exec .aScan s = .next t ∧
      (∀ k, buf[k]? = some Config.start → (∀ i, i < k → buf[i]? ≠ some Config.start) →
        t.Holds (buf.drop k) ∧ t.asm = .collecting) ∧
      (Config.start ∉ buf → t.Holds [] ∧ t.asm = .idle) ∧
      t.stopIdx = s.stopIdx ∧ t.rxErr = s.rxErr ∧ t.rxf = s.rxf ∧ t.ev = 0 ∧ t.txNow = [] ∧ SameTransmit s t ∧
      SameDispatchAndEvents s t ∧ t.fnResult = s.fnResult ∧ SameHost s t

/-- R142: A.COLLECT finds the first STOP at an index ≥ 1, also in a full buffer; without one a full buffer is reset
to empty with BufferOverflow and a buffer that is not full ends the tick and stays. -/
def Obligations.CollectFindsFrameBoundary : Prop :=
  ∀ (s : State) (buf : List Byte), s.asm = .collecting → s.Holds buf → buf.length ≤ Config.capacity →
    ∃ t, exec .aCollect s = .next t ∧
      (∀ e, 1 ≤ e → buf[e]? = some Config.stop → (∀ i, 1 ≤ i → i < e → buf[i]? ≠ some Config.stop) →
        t.asm = .decoding ∧ t.stopIdx.toNat = e ∧ t.Holds buf ∧ t.evTrace = s.evTrace ∧ t.ev = 0) ∧
      (Config.stop ∉ buf.drop 1 → t.stopIdx = s.stopIdx ∧
        (buf.length = Config.capacity → t.asm = .scanning ∧ t.Holds [] ∧
          t.evTrace = s.evTrace ++ [⟨.bufferOverflow, Config.capacity⟩] ∧ t.ev = 0b00100) ∧
        (buf.length < Config.capacity → t.asm = .idle ∧ t.Holds buf ∧ t.evTrace = s.evTrace ∧ t.ev = 0)) ∧
      t.txNow = [] ∧ t.rxErr = s.rxErr ∧ t.rxf = s.rxf ∧ SameTransmit s t ∧ t.dispTrace = s.dispTrace ∧
      t.fnResult = s.fnResult ∧ SameHost s t

/-- R143: A.DECODE applies DECODE and then VALIDATE to the bytes between the markers: RXF and Dispatch, or `rx_err`
and Discard, ConversionError before ChecksumMismatch; the buffer stays and no event is raised. -/
def Obligations.DecodeStepChoosesDispatchOrDiscard : Prop :=
  ∀ (s : State) (buf : List Byte), s.asm = .decoding → s.Holds buf → 1 ≤ s.stopIdx.toNat →
    s.stopIdx.toNat ≤ buf.length →
    ∃ t, exec .aDecode s = .next t ∧
      (∀ f, decodeSpan ((buf.drop 1).take (s.stopIdx.toNat - 1)) = some f →
        (f.checksum = checksumOf f.command f.argCount f.args →
          t.asm = .dispatch ∧ t.rxf = f ∧ t.rxErr = s.rxErr) ∧
        (f.checksum ≠ checksumOf f.command f.argCount f.args →
          t.asm = .discard ∧ t.rxErr = 2 ∧ t.rxf = s.rxf)) ∧
      (decodeSpan ((buf.drop 1).take (s.stopIdx.toNat - 1)) = none →
        t.asm = .discard ∧ t.rxErr = 1 ∧ t.rxf = s.rxf) ∧
      t.Holds buf ∧ t.stopIdx = s.stopIdx ∧ t.ev = 0 ∧ t.txNow = [] ∧ SameTransmit s t ∧ SameDispatchAndEvents s t ∧
      t.fnResult = s.fnResult ∧ SameHost s t

/-- R144: A.DISPATCH hands RXF over by value and removes START, span and STOP, in one step, when the host answers;
until then there is no step. `stop_idx` and RXF are unspecified afterwards (R22, R28): nothing is said of them. -/
def Obligations.DispatchHandsOverAndCompacts : Prop :=
  ∀ (s : State) (buf : List Byte), s.asm = .dispatch → s.Holds buf → s.stopIdx.toNat < buf.length →
    (∃ t, exec (.aDispatch true) s = .next t ∧
      t.dispTrace = s.dispTrace ++
        [⟨s.rxf.command, s.rxf.argCount, s.rxf.args.take s.rxf.argCount.toNat, s.rxf.checksum⟩] ∧
      t.Holds (buf.drop (s.stopIdx.toNat + 1)) ∧ t.asm = .scanning ∧ t.rxErr = s.rxErr ∧ t.ev = 0 ∧
      t.txNow = [] ∧ t.evTrace = s.evTrace ∧ SameTransmit s t ∧ t.fnResult = s.fnResult ∧ t.script = s.script) ∧
    exec (.aDispatch false) s = .next s ∧ (s.outputs false false).dispValid = true ∧
    (s.outputs false false).dispCommand = s.rxf.command ∧ (s.outputs false false).dispArgCount = s.rxf.argCount ∧
    (s.outputs false false).dispChecksum = s.rxf.checksum

/-- R145: A.DISCARD raises the one error `rx_err` names, with the number of bytes dropped, and removes START, span
and STOP. `stop_idx` and `rx_err` are unspecified afterwards (R28, R29): nothing is said of them. -/
def Obligations.DiscardRaisesLatchedError : Prop :=
  ∀ (s : State) (buf : List Byte), s.asm = .discard → s.Holds buf → s.stopIdx.toNat < buf.length →
    ∃ t, exec .aDiscard s = .next t ∧
      (s.rxErr = 1 → t.evTrace = s.evTrace ++ [⟨.conversionError, s.stopIdx.toNat + 1⟩] ∧ t.ev = 0b00001) ∧
      (s.rxErr ≠ 1 → t.evTrace = s.evTrace ++ [⟨.checksumMismatch, s.stopIdx.toNat + 1⟩] ∧ t.ev = 0b00010) ∧
      t.Holds (buf.drop (s.stopIdx.toNat + 1)) ∧ t.asm = .scanning ∧ t.rxf = s.rxf ∧ t.txNow = [] ∧ SameTransmit s t ∧
      t.dispTrace = s.dispTrace ∧ t.fnResult = s.fnResult ∧ t.script = s.script

/-- R11: a micro-operation `asm_state` does not select is not enabled, and nothing changes. -/
def Obligations.NotEnabledChangesNothing : Prop :=
  ∀ s : State,
    (s.asm ≠ .scanning → exec .aScan s = .next s) ∧ (s.asm ≠ .collecting → exec .aCollect s = .next s) ∧
    (s.asm ≠ .decoding → exec .aDecode s = .next s) ∧
    (∀ r, s.asm ≠ .dispatch ∨ r = false → exec (.aDispatch r) s = .next s) ∧
    (s.asm ≠ .discard → exec .aDiscard s = .next s)

/-- R140: the transition table is complete: an operation other than RESET changes `asm_state` only along a row of
it. -/
def Obligations.TransitionTableIsComplete : Prop :=
  ∀ (i : Instr) (s t : State), exec i s = .next t → t.asm ≠ s.asm → i ≠ .reset →
    (i = .tick ∧ s.asm = .idle ∧ t.asm = .scanning) ∨
    (i = .aScan ∧ s.asm = .scanning ∧ (t.asm = .collecting ∨ t.asm = .idle)) ∨
    (i = .aCollect ∧ s.asm = .collecting ∧ (t.asm = .decoding ∨ t.asm = .scanning ∨ t.asm = .idle)) ∨
    (i = .aDecode ∧ s.asm = .decoding ∧ (t.asm = .dispatch ∨ t.asm = .discard)) ∨
    (i = .aDispatch true ∧ s.asm = .dispatch ∧ t.asm = .scanning) ∨
    (i = .aDiscard ∧ s.asm = .discard ∧ t.asm = .scanning)

/-- R147: at the moment a micro-operation writes Idle, the buffer is empty or a partial frame below capacity. -/
def Obligations.TickEndsQuiescent : Prop :=
  ∀ (i : Instr) (s t : State), FramerInv s → exec i s = .next t → i ≠ .reset → s.asm ≠ .idle → t.asm = .idle →
    ∃ buf, t.Holds buf ∧ QuiescentShape buf

/-- R144, D34: while a frame waits in Dispatch, no operation but the hand-over and RESET changes what the dispatch
port shows. -/
def Obligations.DispatchPortIsStable : Prop :=
  ∀ (i : Instr) (s t : State), s.asm = .dispatch → exec i s = .next t → i ≠ .aDispatch true → i ≠ .reset →
    t.asm = .dispatch ∧ (t.outputs false false).dispValid = true ∧
      (t.outputs false false).dispCommand = (s.outputs false false).dispCommand ∧
      (t.outputs false false).dispArgCount = (s.outputs false false).dispArgCount ∧
      (t.outputs false false).dispArgs = (s.outputs false false).dispArgs ∧
      (t.outputs false false).dispChecksum = (s.outputs false false).dispChecksum

/-- R35: the dispatch port shows the frame A.DISPATCH hands over, argument i at bits 8i+7 down to 8i. -/
def Obligations.DispatchPortShowsTheFrame : Prop :=
  ∀ s : State, FramerInv s → s.asm = .dispatch →
    (s.outputs false false).dispCommand = s.rxf.command ∧ (s.outputs false false).dispArgCount = s.rxf.argCount ∧
    (s.outputs false false).dispChecksum = s.rxf.checksum ∧
    ∀ i, i < s.rxf.argCount.toNat → some (argByte (s.outputs false false).dispArgs i) = s.rxf.args[i]?

/-! ### TransmitPath -/

/-- R170: SEND_FRAME latches, computes the checksum and writes the wire frame as one unit, or raises EncodeError and
sends nothing; the receive side is untouched. -/
def Obligations.SendFrameWritesOneFrame : Prop :=
  ∀ (c : Byte) (n : ArgCount) (args : ArgPort) (s : State), s.rawOpen = false →
    ∃ t, exec (.sendFrame c n args) s = .next t ∧
      (n.toNat ≤ Config.maxArgs → ∃ w,
        t.txf.command = c ∧ t.txf.argCount = n ∧ t.txf.args.length = n.toNat ∧
        (∀ i, i < n.toNat → t.txf.args[i]? = some (args.extractLsb' (8 * i) 8)) ∧
        t.txf.checksum = checksumOf c n t.txf.args ∧
        encodeFrame t.txf = some w ∧ w.length = 2 * (n.toNat + 3) + 2 ∧ t.txStream = s.txStream ++ w ∧
        t.txNow = w ∧ t.evTrace = s.evTrace ∧ t.ev = 0) ∧
      (Config.maxArgs < n.toNat →
        t.txf = s.txf ∧ t.txStream = s.txStream ∧ t.txNow = [] ∧ t.evTrace = s.evTrace ++ [⟨.encodeError, n.toNat⟩] ∧
        t.ev = 0b10000) ∧
      t.rawOpen = false ∧ SameReceive s t ∧ t.dispTrace = s.dispTrace ∧ t.fnResult = s.fnResult ∧ SameHost s t

/-- R251, R172: while a raw message is open `txf_ready` is 0 and a SEND_FRAME waits, for however many steps; nothing
is sent and no request is dropped. That the waiting request goes to the end of the script is the model's (assumption
8). -/
def Obligations.OpenRawMessageBlocksFrames : Prop :=
  (∀ (c : Byte) (n : ArgCount) (args : ArgPort) (s : State), s.rawOpen = true →
    (s.outputs false false).txfReady = false ∧
      exec (.sendFrame c n args) s = .next { s with script := s.script ++ [.txf c n args] }) ∧
  (∀ (k : Nat) (s : State), s.rawOpen = true → (∀ r ∈ s.script, ∃ c n a, r = .txf c n a) →
    ∃ t, Host.Core.run Sys2Proof.core k s = .next t ∧ t.rawOpen = true ∧ SameTransmit s t ∧ SameReceive s t ∧
      SameDispatchAndEvents s t ∧ t.script.Perm s.script)

/-- R171: SEND_BUFFER writes the bytes verbatim and contiguously, and an empty one writes nothing; nothing else
changes. That a run may end without `txr_last` and then leaves `raw_open` set is the split rendering that R251 allows,
the model's choice (assumption 9). -/
def Obligations.SendBufferWritesVerbatim : Prop :=
  ∀ (m : List Byte) (last : Bool) (s : State),
    (m ≠ [] →
      exec (.sendBuffer m last) s =
        .next { s with txStream := s.txStream ++ m, rawOpen := !last, ev := 0, txNow := m }) ∧
    exec (.sendBuffer [] last) s = .next s

/-- R251: a message sent byte by byte, the last one with `txr_last` = 1, leaves what the whole message leaves as one
step, all but the bytes at the sink in the last step. The split is the model's choice (assumption 9). -/
def Obligations.BytewiseMessageEqualsWhole : Prop :=
  ∀ (m : List Byte) (b : Byte) (s : State),
    ∃ t : State, s.runScript (m.map (fun x => .txr [x] false) ++ [.txr [b] true]) = .next { t with txNow := [b] } ∧
      s.runScript [.txr (m ++ [b]) true] = .next { t with txNow := m ++ [b] } ∧
      t.txStream = s.txStream ++ m ++ [b] ∧ t.rawOpen = false

/-- R175: no transmit operation writes or reads receive-side state, and no other operation but RESET writes or reads
TXF, `raw_open` or `tx_stream`. (The free values drawn at the end of Dispatch and Discard depend on their count, assumption
2, so the two receive runs start from the same count.) -/
def Obligations.TransmitAndReceiveAreIndependent : Prop :=
  (∀ (i : Instr) (s t : State), (∃ c n a, i = .sendFrame c n a) ∨ (∃ m l, i = .sendBuffer m l) →
    exec i s = .next t → SameReceive s t ∧ t.dispTrace = s.dispTrace ∧
      ∀ s', SameTransmit s s' → ∃ t', exec i s' = .next t' ∧ SameTransmit t t') ∧
  (∀ (i : Instr) (s t : State),
    (∀ c n a, i ≠ .sendFrame c n a) → (∀ m l, i ≠ .sendBuffer m l) → i ≠ .reset →
    exec i s = .next t → SameTransmit s t ∧
      ∀ s', SameReceive s s' → s'.freeCount = s.freeCount → ∃ t', exec i s' = .next t' ∧ SameReceive t t')

/-! ### Driver Loop -/

/-- R191: TICK.START, from Idle. -/
def Obligations.TickStartsScanning : Prop :=
  ∀ s : State, s.asm = .idle →
    exec .tick s = .next { s with asm := .scanning, ev := 0, txNow := [] } ∧ (s.outputs false false).busy = false ∧
      ∀ t, exec .tick s = .next t → (t.outputs false false).busy = true

/-- R193: a tick requested while a tick is in progress is ignored: it is not queued and starts nothing. -/
def Obligations.TickWhileBusyIsIgnored : Prop :=
  ∀ (s : State) (rest : List Request), s.asm ≠ .idle → s.script = .tick :: rest →
    step s = .next { s with script := rest } ∧ (s.outputs false false).busy = true

/-- R192: a tick with nothing to do changes nothing, whether the buffer is empty or holds a partial frame. -/
def Obligations.TickWithNothingToDoIsNoOp : Prop :=
  ∀ (s : State) (buf : List Byte) (r r' : Bool), s.asm = .idle → s.Holds buf → QuiescentShape buf →
    ∃ t, s.runScript [.tick, .driver r, .driver r'] = .next t ∧ t.asm = .idle ∧ t.Holds buf ∧
      t.stopIdx = s.stopIdx ∧ t.rxErr = s.rxErr ∧ t.rxf = s.rxf ∧ SameTransmit s t ∧ SameDispatchAndEvents s t ∧
      t.ev = 0 ∧ t.txNow = [] ∧ t.fnResult = s.fnResult ∧ t.freeCount = s.freeCount ∧ t.script = []

/-- R194, R148: a tick over n bytes, no byte arriving and every dispatch answered, is back in Idle after at most
4 · floor(n / 2) + 2 micro-operations, with no complete frame left. -/
def Obligations.TickTerminatesInBound : Prop :=
  ∀ (s : State) (buf : List Byte), FramerInv s → s.asm = .idle → s.Holds buf →
    ∃ t rest, s.runScript (.tick :: List.replicate (4 * (buf.length / 2) + 2) (.driver true)) = .next t ∧
      t.asm = .idle ∧ t.Holds rest ∧ QuiescentShape rest ∧ rest <:+ buf

/-! ### Clocked samples -/

/-- R87, R35: in a clocked sample without reset exactly those ports have a transaction whose valid and ready are both 1
(the rx port and the tick have no ready: `tick` counts while `busy` = 0); the two requests of the transmit path are
never both taken (R172), and a tick while busy is none (R193). That a micro-operation takes one sample, and a frame is
serialised within one, is the model's (assumptions 24 and 26). -/
def Obligations.PortTransactionsFollowValidAndReady : Prop :=
  ∀ (p : Pins) (s : State), p.rst = false →
    ((∃ b, .rx b ∈ pinRequests p s) ↔ p.rxValid = true) ∧ (∀ b, .rx b ∈ pinRequests p s → b = p.rxData) ∧
    (.tick ∈ pinRequests p s ↔ p.tick = true ∧ (s.outputs false p.txfValid).busy = false) ∧
    (s.asm = .dispatch → ((∃ r, .driver r ∈ pinRequests p s) ↔
      (s.outputs false p.txfValid).dispValid = true ∧ p.dispReady = true)) ∧
    ((∃ c n a, .txf c n a ∈ pinRequests p s) ↔
      p.txfValid = true ∧ (s.outputs false p.txfValid).txfReady = true) ∧
    (∀ c n a, .txf c n a ∈ pinRequests p s → c = p.txfCommand ∧ n = p.txfArgCount ∧ a = p.txfArgs) ∧
    ((∃ m l, .txr m l ∈ pinRequests p s) ↔
      p.txrValid = true ∧ (s.outputs false p.txfValid).txrReady = true) ∧
    (∀ m l, .txr m l ∈ pinRequests p s → m = [p.txrData] ∧ l = p.txrLast) ∧
    ¬ ((s.outputs false p.txfValid).txrReady = true ∧ p.txfValid = true ∧
      (s.outputs false p.txfValid).txfReady = true)

/-- R64, R172, R193, R216 (c): a clocked sample without reset is one step, in which the driver has its micro-operation
or starts a tick, then a byte is received, then the transmit path takes a frame or else a raw byte, each or none as the
pins ask; the lines pulsed are those of all of them. The transmit path's place is the model's choice (assumption 19),
one micro-operation a sample too (assumption 26). -/
def Obligations.SameCycleDriverBeforeIngest : Prop :=
  ∀ (s u v w : State) (p : Pins) (rest : List Request), s.script = .cycle p :: rest → p.rst = false →
    Took (if s.asm = .idle then (if p.tick then some .tick else none)
        else if s.asm = .dispatch ∧ p.dispReady = false then none else microOp s.asm p.dispReady)
      { s with script := rest, ev := 0, txNow := [] } u →
    Took (if p.rxValid then some (.ingest p.rxData) else none) u v →
    Took (if p.txfValid = true ∧ s.rawOpen = false then some (.sendFrame p.txfCommand p.txfArgCount p.txfArgs)
        else if p.txrValid then some (.sendBuffer [p.txrData] p.txrLast) else none) v w →
    step s = .next w

/-! ### Errors and traces -/

/-- R210: each error is raised by the operation and for the cause its row names, with the info its row names, and
pulses bit (code − 1) alone; a step raises at most one (R216 (d)). That a byte row raises RxDrop as INGEST of its byte
does is the model's reading (assumption 6); the frame row is many INGESTs and has its own statement. -/
def Obligations.ErrorsAreRaisedByTheirRule : Prop :=
  ([ErrorName.conversionError, .checksumMismatch, .bufferOverflow, .rxDrop, .encodeError].map ErrorName.pulse =
    [0b00001, 0b00010, 0b00100, 0b01000, 0b10000]) ∧
  ∀ (i : Instr) (s t : State), WellFormed i → (∀ c n a k, i ≠ .frame c n a k) → exec i s = .next t →
    t.evTrace ≠ s.evTrace →
    ∃ e info, t.evTrace = s.evTrace ++ [⟨e, info⟩] ∧ t.ev = e.pulse ∧
      ((e = .conversionError ∧ i = .aDiscard ∧ s.rxErr = 1 ∧ info = s.stopIdx.toNat + 1) ∨
       (e = .checksumMismatch ∧ i = .aDiscard ∧ s.rxErr ≠ 1 ∧ info = s.stopIdx.toNat + 1) ∨
       (e = .bufferOverflow ∧ i = .aCollect ∧ s.rxLen.toNat = Config.capacity ∧ info = Config.capacity) ∨
       (e = .rxDrop ∧ Config.capacity ≤ s.rxLen.toNat ∧
         ∃ b : Byte, info = b.toNat ∧ (i = .ingest b ∨ i = decodeByte b)) ∨
       (e = .encodeError ∧ ∃ c n a, i = .sendFrame c n a ∧ Config.maxArgs < n.toNat ∧ info = n.toNat))

/-- R34: the three traces only grow, under every step, RESET among them. -/
def Obligations.TracesOnlyGrow : Prop :=
  ∀ s t : State, step s = .next t →
    s.txStream <+: t.txStream ∧ s.dispTrace <+: t.dispTrace ∧ s.evTrace <+: t.evTrace

/-- R144, R244: only A.DISPATCH in Dispatch with the host's answer hands a frame over, and it is a valid Frame, the
one the span in hand decodes to. -/
def Obligations.OnlyValidFramesAreHandedOver : Prop :=
  ∀ (i : Instr) (s t : State), FramerInv s → exec i s = .next t → t.dispTrace ≠ s.dispTrace →
    i = .aDispatch true ∧ s.asm = .dispatch ∧
      ∃ f span, t.dispTrace = s.dispTrace ++ [f] ∧ ValidFrame f ∧ s.span = some span ∧ decodeSpan span = some f

/-! ### The machine -/

/-- The invariant holds after reset. -/
def Obligations.InvariantHoldsAtReset : Prop := FramerInv State.reset

/-- R26 to R29, R144: every step from a state that meets the invariant gives a state that meets it. -/
def Obligations.StepKeepsInvariant : Prop := ∀ s t : State, FramerInv s → step s = .next t → FramerInv t

/-- R219: from a state that meets the invariant every step completes: the machine has no fatal path. -/
def Obligations.NoFatalPath : Prop := ∀ s : State, FramerInv s → ∃ t, step s = .next t

/-- Every step keeps the memory's canonical form, from every state. -/
def Obligations.StepKeepsMemoryCanonical : Prop := ∀ s t : State, s.mem.Wf → step s = .next t → t.mem.Wf

/-- A step runs the operation that the next request selects, on the state without that request (or with what is left
of it). -/
def Obligations.StepRunsDecodedOperation : Prop :=
  ∀ (s : State) (r : Request) (rest : List Request) (i : Instr) (left : Option Request),
    s.script = r :: rest → decode s.asm r = .ok (i, left) →
    step s = exec i { s with script := match left with | none => rest | some r' => r' :: rest }

/-- A step with no request changes nothing; a request, other than a clocked sample, that selects no operation (the
driver's turn in Idle, an empty wire, an empty run) goes and changes nothing else; a clocked sample that asks for
nothing ends every pulse and changes nothing else. The script and the clocked sample are the model's form of the
schedule and the pins (assumptions 1, 7, 10 and 19). -/
def Obligations.StepWithoutOperation : Prop :=
  ∀ (s : State) (rest : List Request),
    (s.script = [] → step s = .next s) ∧
    (∀ r e, (∀ p, r ≠ .cycle p) → decode s.asm r = .error e → s.script = r :: rest →
      step s = .next { s with script := rest }) ∧
    (∀ ready, decode .idle (.driver ready) = .error .driverIdle) ∧ decode s.asm (.wire []) = .error .emptyWire ∧
    (∀ last, decode s.asm (.txr [] last) = .error .emptyRun) ∧
    (∀ p, pinRequests p s = [] → s.script = .cycle p :: rest →
      step s = .next { s with script := rest, ev := 0, txNow := [] })

/-! ### Encoding -/

/-- A few words written out from the spec's encodings. -/
def Obligations.SpecWordsDecode : Prop :=
  decodeTableWord 8 0b00110111 = some (.digit 7) ∧ decodeTableWord 8 0b00111100 = some .start ∧
    decodeTableWord 8 0b00111110 = some .stop ∧ decodeTableWord 8 0b01000110 = some (.upper 6) ∧
    decodeTableWord 8 0b01100001 = some (.lower 1) ∧ decodeTableWord 8 0b01000111 = some (.other 0x47) ∧
    decode .dispatch (.driver true) = .ok (.aDispatch true, none) ∧
    decode .idle (.txf 1 2 0x0B0A) = .ok (.sendFrame 1 2 0x0B0A, none) ∧
    AsmState.code .discard = 0b101 ∧ AsmState.ofCode 0b110 = none

/-- Decoding the encoding of a well-formed operation gives the operation back, every operand with it. -/
def Obligations.DecodeOfEncodeIsTheOperation : Prop :=
  ∀ i : Instr, WellFormed i → decode (selectingState i) (encode i) = .ok (i, none)

/-- The other direction on the wire: whatever bytes arrive, the operation read off them is well-formed, its encoding
is exactly the bytes read, and the rest is left. -/
def Obligations.WireDecodingReadsExactBytes : Prop :=
  ∀ bytes : List Byte, bytes ≠ [] →
    ∃ i w rest, decodeWire bytes = some (i, rest) ∧ WellFormed i ∧ encode i = .wire w ∧ bytes = w ++ rest

/-! ### Whole runs -/

/-- R149 (a): whatever the chunks, wherever the ticks and the driver's turns fall and however long the host lets a
dispatch wait, the bytes of one encoded frame, followed by a finishing tick, dispatch exactly that frame and raise nothing. -/
def Obligations.FragmentationInvariance : Prop :=
  ∀ (s : State) (f : Frame) (w : List Byte) (schedule : List Request), QuiescentEmpty s → ValidFrame f →
    encodeFrame f = some w → (∀ r ∈ schedule, ReceiveRequest r) → schedule.filterMap rxByte = w →
    ∃ t, s.runScript (schedule ++ finishingRequests w.length) = .next t ∧ t.asm = .idle ∧ t.Holds [] ∧
      t.dispTrace = s.dispTrace ++ [f] ∧ t.evTrace = s.evTrace

/-- R149 (b): bytes other than markers before and after an encoded frame do not keep it from being dispatched. -/
def Obligations.GarbageTolerance : Prop :=
  ∀ (s : State) (f : Frame) (w g g' : List Byte), QuiescentEmpty s → ValidFrame f → encodeFrame f = some w →
    Config.start ∉ g → Config.stop ∉ g → Config.start ∉ g' → Config.stop ∉ g' →
    (g ++ w ++ g').length ≤ Config.capacity →
    ∃ t, s.runScript (feedRequests (g ++ w ++ g') ++ tickRequests (g ++ w ++ g').length) = .next t ∧
      t.asm = .idle ∧ t.Holds [] ∧ t.dispTrace = s.dispTrace ++ [f] ∧ t.evTrace = s.evTrace

/-- R149 (c): a START followed by CAPACITY − 1 or more bytes with no STOP among them overflows at the next tick,
dispatches nothing, and a valid frame sent afterwards is dispatched. -/
def Obligations.OverflowContainment : Prop :=
  ∀ (s : State) (f : Frame) (w m : List Byte), QuiescentEmpty s → ValidFrame f → encodeFrame f = some w →
    Config.stop ∉ m → Config.capacity ≤ m.length + 1 →
    ∃ t u, s.runScript (feedRequests (Config.start :: m) ++ tickRequests Config.capacity) = .next t ∧
      t.asm = .idle ∧ t.Holds [] ∧ t.dispTrace = s.dispTrace ∧
      t.evTrace = s.evTrace ++ (m.drop (Config.capacity - 1)).map (fun b => ⟨.rxDrop, b.toNat⟩)
        ++ [⟨.bufferOverflow, Config.capacity⟩] ∧
      t.runScript (feedRequests w ++ tickRequests w.length) = .next u ∧ u.asm = .idle ∧ u.Holds [] ∧
      u.dispTrace = s.dispTrace ++ [f] ∧ u.evTrace = t.evTrace

/-- R250: a stray START before a frame costs that frame: its span fails DECODE, one ConversionError, nothing
dispatched. -/
def Obligations.StrayStartLosesTheFrame : Prop :=
  ∀ (s : State) (f : Frame) (w g : List Byte), QuiescentEmpty s → ValidFrame f → encodeFrame f = some w →
    Config.stop ∉ g → (Config.start :: (g ++ w)).length ≤ Config.capacity →
    ∃ t, s.runScript (feedRequests (Config.start :: (g ++ w)) ++ tickRequests (Config.start :: (g ++ w)).length)
        = .next t ∧ t.asm = .idle ∧ t.Holds [] ∧ t.dispTrace = s.dispTrace ∧
      t.evTrace = s.evTrace ++ [⟨.conversionError, (Config.start :: (g ++ w)).length⟩]

/-- R176: what one machine emits for a SEND_FRAME, fed to a second one that is quiescent and empty and then ticks,
is dispatched there as exactly that frame with its checksum. -/
def Obligations.EndToEndDelivery : Prop :=
  ∀ (a b : State) (c : Byte) (n : ArgCount) (args : ArgPort), a.rawOpen = false → n.toNat ≤ Config.maxArgs →
    QuiescentEmpty b →
    ∃ a' w b' f, exec (.sendFrame c n args) a = .next a' ∧ a'.txStream = a.txStream ++ w ∧ a'.txNow = w ∧
      b.runScript (feedRequests w ++ tickRequests w.length) = .next b' ∧ b'.asm = .idle ∧ b'.Holds [] ∧
      b'.dispTrace = b.dispTrace ++ [f] ∧ b'.evTrace = b.evTrace ∧ f.command = c ∧ f.argCount = n ∧
      f.args.length = n.toNat ∧ (∀ i, i < n.toNat → f.args[i]? = some (args.extractLsb' (8 * i) 8)) ∧
      f.checksum = checksumOf c n f.args

/-- R149 (d): as long as `rx_len` never reaches CAPACITY, the dispatched frames, the events and the bytes left depend on
the bytes alone, not on where the ticks and the driver's turns fall and how long the host lets a dispatch wait. -/
def Obligations.ScheduleIndependence : Prop :=
  ∀ (s : State) (one two : List Request), QuiescentEmpty s →
    (∀ r ∈ one, ReceiveRequest r) → (∀ r ∈ two, ReceiveRequest r) →
    one.filterMap rxByte = two.filterMap rxByte → StaysBelowCapacity s one → StaysBelowCapacity s two →
    ∃ t u, s.runScript (one ++ finishingRequests Config.capacity) = .next t ∧
      s.runScript (two ++ finishingRequests Config.capacity) = .next u ∧
      t.dispTrace = u.dispTrace ∧ t.evTrace = u.evTrace ∧ t.asm = .idle ∧ u.asm = .idle ∧
      ∃ rest, t.Holds rest ∧ u.Holds rest
end

