-- ==== Sys2Proof/Laws/Codec.lean ====
section
/-! SUPPORT. What the codec's functions answer (R110 to R115), said once. -/

namespace Sys2Proof.Machine

/-- The argument loop of DECODE reads n pairs, and reads them all. -/
theorem decodeArgs_eq_some (span : List Byte) (n : Nat) : ∀ (i : Nat) (a : List Byte),
    decodeArgs span i n = some a ↔ a.length = n ∧ ∀ j, j < n → hexDecAt span (i + 2 * j) = a[j]? := by
  induction n with
  | zero => intro i a; rw [decodeArgs, Option.some.injEq, List.length_eq_zero_iff]; simp [eq_comm]
  | succ n ih =>
    intro i a
    simp only [decodeArgs]
    constructor
    · intro h
      split at h
      · rename_i b t hb ht
        cases h
        obtain ⟨h1, h2⟩ := (ih (i + 2) t).mp ht
        refine ⟨by simp [h1], fun j hj => ?_⟩
        cases j with
        | zero => simpa using hb
        | succ j =>
          have hj' := h2 j (by omega)
          rw [List.getElem?_cons_succ, ← hj']
          congr 1; omega
      · cases h
    · rintro ⟨h1, h2⟩
      cases a with
      | nil => simp at h1
      | cons b t =>
        have hb := h2 0 (by omega)
        have ht := (ih (i + 2) t).mpr ⟨by simpa using h1, fun j hj => by
          have hj' := h2 (j + 1) (by omega)
          rw [List.getElem?_cons_succ] at hj'
          rw [← hj']; congr 1; omega⟩
        simp only [Nat.mul_zero, Nat.add_zero, List.getElem?_cons_zero] at hb
        simp [hb, ht]

/-- What DECODE answers has at most 32 arguments, and exactly arg_count of them (R21, R114). -/
theorem decodeSpan_shape {span : List Byte} {f : Frame} (h : decodeSpan span = some f) :
    f.argCount.toNat ≤ Config.maxArgs ∧ f.args.length = f.argCount.toNat := by
  unfold decodeSpan at h
  split at h
  · cases h
  · split at h
    · rename_i c n _ _
      split at h
      · cases h
      · rename_i hn
        split at h
        · cases h
        · split at h
          · rename_i a k ha _
            cases h
            have hn' : n.toNat ≤ 32 := by simpa [Config.maxArgs] using hn
            have hw : (n.setWidth 6).toNat = n.toNat := by simp; omega
            simp only [hw]
            exact ⟨hn', ((decodeArgs_eq_some _ _ _ _).mp ha).1⟩
          · cases h
    · cases h

theorem validates_iff (f : Frame) :
    validates f = true ↔ f.checksum = checksumOf f.command f.argCount f.args := by simp [validates]

/-- HEXDEC of HEXENC is the byte. -/
theorem hexDec_hexEnc : ∀ b : Byte, hexDec (hexEnc b).1 (hexEnc b).2 = some b := by
  set_option maxRecDepth 100000 in decide

/-- `hexval` of the digit HEXENC writes is the nibble. -/
theorem hexVal_hexChar : ∀ v : Nibble, hexVal (hexChar v) = some v := by decide

/-- HEXENC's digits are neither marker. -/
theorem hexChar_ne_marker : ∀ v : Nibble, hexChar v ≠ Config.start ∧ hexChar v ≠ Config.stop := by decide

/-- HEXDECs of two sequences agree where both characters do. -/
theorem hexDecAt_congr {s t : List Byte} {i j : Nat} (h0 : s[i]? = t[j]?) (h1 : s[i + 1]? = t[j + 1]?) :
    hexDecAt s i = hexDecAt t j := by simp [hexDecAt, h0, h1]

end Sys2Proof.Machine
end

