-- ==== Sys2Proof/Laws/State.lean ====
section
/-! SUPPORT. What every named update does to every field of State: one lemma per field per update, true by rfl. -/

namespace Sys2Proof.Machine

variable (s : State)

/-! ### newTransaction -/

@[simp] theorem State.newTransaction_mem : (s.newTransaction).mem = s.mem := rfl
@[simp] theorem State.newTransaction_rxLen : (s.newTransaction).rxLen = s.rxLen := rfl
@[simp] theorem State.newTransaction_asm : (s.newTransaction).asm = s.asm := rfl
@[simp] theorem State.newTransaction_stopIdx : (s.newTransaction).stopIdx = s.stopIdx := rfl
@[simp] theorem State.newTransaction_rxErr : (s.newTransaction).rxErr = s.rxErr := rfl
@[simp] theorem State.newTransaction_rxf : (s.newTransaction).rxf = s.rxf := rfl
@[simp] theorem State.newTransaction_txf : (s.newTransaction).txf = s.txf := rfl
@[simp] theorem State.newTransaction_rawOpen : (s.newTransaction).rawOpen = s.rawOpen := rfl
@[simp] theorem State.newTransaction_ev : (s.newTransaction).ev = 0 := rfl
@[simp] theorem State.newTransaction_txNow : (s.newTransaction).txNow = [] := rfl
@[simp] theorem State.newTransaction_txStream : (s.newTransaction).txStream = s.txStream := rfl
@[simp] theorem State.newTransaction_dispTrace : (s.newTransaction).dispTrace = s.dispTrace := rfl
@[simp] theorem State.newTransaction_evTrace : (s.newTransaction).evTrace = s.evTrace := rfl
@[simp] theorem State.newTransaction_fnResult : (s.newTransaction).fnResult = s.fnResult := rfl
@[simp] theorem State.newTransaction_script : (s.newTransaction).script = s.script := rfl
@[simp] theorem State.newTransaction_freeCount : (s.newTransaction).freeCount = s.freeCount := rfl

/-! ### pulsesAfter -/

@[simp] theorem State.pulsesAfter_mem (u : State) : (s.pulsesAfter u).mem = s.mem := rfl
@[simp] theorem State.pulsesAfter_rxLen (u : State) : (s.pulsesAfter u).rxLen = s.rxLen := rfl
@[simp] theorem State.pulsesAfter_asm (u : State) : (s.pulsesAfter u).asm = s.asm := rfl
@[simp] theorem State.pulsesAfter_stopIdx (u : State) : (s.pulsesAfter u).stopIdx = s.stopIdx := rfl
@[simp] theorem State.pulsesAfter_rxErr (u : State) : (s.pulsesAfter u).rxErr = s.rxErr := rfl
@[simp] theorem State.pulsesAfter_rxf (u : State) : (s.pulsesAfter u).rxf = s.rxf := rfl
@[simp] theorem State.pulsesAfter_txf (u : State) : (s.pulsesAfter u).txf = s.txf := rfl
@[simp] theorem State.pulsesAfter_rawOpen (u : State) : (s.pulsesAfter u).rawOpen = s.rawOpen := rfl
@[simp] theorem State.pulsesAfter_ev (u : State) : (s.pulsesAfter u).ev = u.ev ||| s.ev := rfl
@[simp] theorem State.pulsesAfter_txNow (u : State) : (s.pulsesAfter u).txNow = u.txNow ++ s.txNow := rfl
@[simp] theorem State.pulsesAfter_txStream (u : State) : (s.pulsesAfter u).txStream = s.txStream := rfl
@[simp] theorem State.pulsesAfter_dispTrace (u : State) : (s.pulsesAfter u).dispTrace = s.dispTrace := rfl
@[simp] theorem State.pulsesAfter_evTrace (u : State) : (s.pulsesAfter u).evTrace = s.evTrace := rfl
@[simp] theorem State.pulsesAfter_fnResult (u : State) : (s.pulsesAfter u).fnResult = s.fnResult := rfl
@[simp] theorem State.pulsesAfter_script (u : State) : (s.pulsesAfter u).script = s.script := rfl
@[simp] theorem State.pulsesAfter_freeCount (u : State) : (s.pulsesAfter u).freeCount = s.freeCount := rfl

/-! ### append -/

@[simp] theorem State.append_mem (b : Byte) : (s.append b).mem = s.mem.write s.rxLen.toNat b := rfl
@[simp] theorem State.append_rxLen (b : Byte) : (s.append b).rxLen = s.rxLen + 1 := rfl
@[simp] theorem State.append_asm (b : Byte) : (s.append b).asm = s.asm := rfl
@[simp] theorem State.append_stopIdx (b : Byte) : (s.append b).stopIdx = s.stopIdx := rfl
@[simp] theorem State.append_rxErr (b : Byte) : (s.append b).rxErr = s.rxErr := rfl
@[simp] theorem State.append_rxf (b : Byte) : (s.append b).rxf = s.rxf := rfl
@[simp] theorem State.append_txf (b : Byte) : (s.append b).txf = s.txf := rfl
@[simp] theorem State.append_rawOpen (b : Byte) : (s.append b).rawOpen = s.rawOpen := rfl
@[simp] theorem State.append_ev (b : Byte) : (s.append b).ev = s.ev := rfl
@[simp] theorem State.append_txNow (b : Byte) : (s.append b).txNow = s.txNow := rfl
@[simp] theorem State.append_txStream (b : Byte) : (s.append b).txStream = s.txStream := rfl
@[simp] theorem State.append_dispTrace (b : Byte) : (s.append b).dispTrace = s.dispTrace := rfl
@[simp] theorem State.append_evTrace (b : Byte) : (s.append b).evTrace = s.evTrace := rfl
@[simp] theorem State.append_fnResult (b : Byte) : (s.append b).fnResult = s.fnResult := rfl
@[simp] theorem State.append_script (b : Byte) : (s.append b).script = s.script := rfl
@[simp] theorem State.append_freeCount (b : Byte) : (s.append b).freeCount = s.freeCount := rfl

/-! ### dropFront -/

@[simp] theorem State.dropFront_mem (k : Nat) : (s.dropFront k).mem = s.mem.shift k s.rxLen.toNat := rfl
@[simp] theorem State.dropFront_rxLen (k : Nat) : (s.dropFront k).rxLen = s.rxLen - BitVec.ofNat 9 k := rfl
@[simp] theorem State.dropFront_asm (k : Nat) : (s.dropFront k).asm = s.asm := rfl
@[simp] theorem State.dropFront_stopIdx (k : Nat) : (s.dropFront k).stopIdx = s.stopIdx := rfl
@[simp] theorem State.dropFront_rxErr (k : Nat) : (s.dropFront k).rxErr = s.rxErr := rfl
@[simp] theorem State.dropFront_rxf (k : Nat) : (s.dropFront k).rxf = s.rxf := rfl
@[simp] theorem State.dropFront_txf (k : Nat) : (s.dropFront k).txf = s.txf := rfl
@[simp] theorem State.dropFront_rawOpen (k : Nat) : (s.dropFront k).rawOpen = s.rawOpen := rfl
@[simp] theorem State.dropFront_ev (k : Nat) : (s.dropFront k).ev = s.ev := rfl
@[simp] theorem State.dropFront_txNow (k : Nat) : (s.dropFront k).txNow = s.txNow := rfl
@[simp] theorem State.dropFront_txStream (k : Nat) : (s.dropFront k).txStream = s.txStream := rfl
@[simp] theorem State.dropFront_dispTrace (k : Nat) : (s.dropFront k).dispTrace = s.dispTrace := rfl
@[simp] theorem State.dropFront_evTrace (k : Nat) : (s.dropFront k).evTrace = s.evTrace := rfl
@[simp] theorem State.dropFront_fnResult (k : Nat) : (s.dropFront k).fnResult = s.fnResult := rfl
@[simp] theorem State.dropFront_script (k : Nat) : (s.dropFront k).script = s.script := rfl
@[simp] theorem State.dropFront_freeCount (k : Nat) : (s.dropFront k).freeCount = s.freeCount := rfl

/-! ### resetBuf -/

@[simp] theorem State.resetBuf_mem : (s.resetBuf).mem = [] := rfl
@[simp] theorem State.resetBuf_rxLen : (s.resetBuf).rxLen = 0 := rfl
@[simp] theorem State.resetBuf_asm : (s.resetBuf).asm = s.asm := rfl
@[simp] theorem State.resetBuf_stopIdx : (s.resetBuf).stopIdx = s.stopIdx := rfl
@[simp] theorem State.resetBuf_rxErr : (s.resetBuf).rxErr = s.rxErr := rfl
@[simp] theorem State.resetBuf_rxf : (s.resetBuf).rxf = s.rxf := rfl
@[simp] theorem State.resetBuf_txf : (s.resetBuf).txf = s.txf := rfl
@[simp] theorem State.resetBuf_rawOpen : (s.resetBuf).rawOpen = s.rawOpen := rfl
@[simp] theorem State.resetBuf_ev : (s.resetBuf).ev = s.ev := rfl
@[simp] theorem State.resetBuf_txNow : (s.resetBuf).txNow = s.txNow := rfl
@[simp] theorem State.resetBuf_txStream : (s.resetBuf).txStream = s.txStream := rfl
@[simp] theorem State.resetBuf_dispTrace : (s.resetBuf).dispTrace = s.dispTrace := rfl
@[simp] theorem State.resetBuf_evTrace : (s.resetBuf).evTrace = s.evTrace := rfl
@[simp] theorem State.resetBuf_fnResult : (s.resetBuf).fnResult = s.fnResult := rfl
@[simp] theorem State.resetBuf_script : (s.resetBuf).script = s.script := rfl
@[simp] theorem State.resetBuf_freeCount : (s.resetBuf).freeCount = s.freeCount := rfl

/-! ### raise -/

@[simp] theorem State.raise_mem (e : ErrorName) (n : Nat) : (s.raise e n).mem = s.mem := rfl
@[simp] theorem State.raise_rxLen (e : ErrorName) (n : Nat) : (s.raise e n).rxLen = s.rxLen := rfl
@[simp] theorem State.raise_asm (e : ErrorName) (n : Nat) : (s.raise e n).asm = s.asm := rfl
@[simp] theorem State.raise_stopIdx (e : ErrorName) (n : Nat) : (s.raise e n).stopIdx = s.stopIdx := rfl
@[simp] theorem State.raise_rxErr (e : ErrorName) (n : Nat) : (s.raise e n).rxErr = s.rxErr := rfl
@[simp] theorem State.raise_rxf (e : ErrorName) (n : Nat) : (s.raise e n).rxf = s.rxf := rfl
@[simp] theorem State.raise_txf (e : ErrorName) (n : Nat) : (s.raise e n).txf = s.txf := rfl
@[simp] theorem State.raise_rawOpen (e : ErrorName) (n : Nat) : (s.raise e n).rawOpen = s.rawOpen := rfl
@[simp] theorem State.raise_ev (e : ErrorName) (n : Nat) : (s.raise e n).ev = s.ev ||| e.pulse := rfl
@[simp] theorem State.raise_txNow (e : ErrorName) (n : Nat) : (s.raise e n).txNow = s.txNow := rfl
@[simp] theorem State.raise_txStream (e : ErrorName) (n : Nat) : (s.raise e n).txStream = s.txStream := rfl
@[simp] theorem State.raise_dispTrace (e : ErrorName) (n : Nat) : (s.raise e n).dispTrace = s.dispTrace := rfl
@[simp] theorem State.raise_evTrace (e : ErrorName) (n : Nat) : (s.raise e n).evTrace = s.evTrace ++ [⟨e, n⟩] := rfl
@[simp] theorem State.raise_fnResult (e : ErrorName) (n : Nat) : (s.raise e n).fnResult = s.fnResult := rfl
@[simp] theorem State.raise_script (e : ErrorName) (n : Nat) : (s.raise e n).script = s.script := rfl
@[simp] theorem State.raise_freeCount (e : ErrorName) (n : Nat) : (s.raise e n).freeCount = s.freeCount := rfl

/-! ### emitTx -/

@[simp] theorem State.emitTx_mem (w : List Byte) : (s.emitTx w).mem = s.mem := rfl
@[simp] theorem State.emitTx_rxLen (w : List Byte) : (s.emitTx w).rxLen = s.rxLen := rfl
@[simp] theorem State.emitTx_asm (w : List Byte) : (s.emitTx w).asm = s.asm := rfl
@[simp] theorem State.emitTx_stopIdx (w : List Byte) : (s.emitTx w).stopIdx = s.stopIdx := rfl
@[simp] theorem State.emitTx_rxErr (w : List Byte) : (s.emitTx w).rxErr = s.rxErr := rfl
@[simp] theorem State.emitTx_rxf (w : List Byte) : (s.emitTx w).rxf = s.rxf := rfl
@[simp] theorem State.emitTx_txf (w : List Byte) : (s.emitTx w).txf = s.txf := rfl
@[simp] theorem State.emitTx_rawOpen (w : List Byte) : (s.emitTx w).rawOpen = s.rawOpen := rfl
@[simp] theorem State.emitTx_ev (w : List Byte) : (s.emitTx w).ev = s.ev := rfl
@[simp] theorem State.emitTx_txNow (w : List Byte) : (s.emitTx w).txNow = s.txNow ++ w := rfl
@[simp] theorem State.emitTx_txStream (w : List Byte) : (s.emitTx w).txStream = s.txStream ++ w := rfl
@[simp] theorem State.emitTx_dispTrace (w : List Byte) : (s.emitTx w).dispTrace = s.dispTrace := rfl
@[simp] theorem State.emitTx_evTrace (w : List Byte) : (s.emitTx w).evTrace = s.evTrace := rfl
@[simp] theorem State.emitTx_fnResult (w : List Byte) : (s.emitTx w).fnResult = s.fnResult := rfl
@[simp] theorem State.emitTx_script (w : List Byte) : (s.emitTx w).script = s.script := rfl
@[simp] theorem State.emitTx_freeCount (w : List Byte) : (s.emitTx w).freeCount = s.freeCount := rfl

/-! ### emitDispatch -/

@[simp] theorem State.emitDispatch_mem (f : Frame) : (s.emitDispatch f).mem = s.mem := rfl
@[simp] theorem State.emitDispatch_rxLen (f : Frame) : (s.emitDispatch f).rxLen = s.rxLen := rfl
@[simp] theorem State.emitDispatch_asm (f : Frame) : (s.emitDispatch f).asm = s.asm := rfl
@[simp] theorem State.emitDispatch_stopIdx (f : Frame) : (s.emitDispatch f).stopIdx = s.stopIdx := rfl
@[simp] theorem State.emitDispatch_rxErr (f : Frame) : (s.emitDispatch f).rxErr = s.rxErr := rfl
@[simp] theorem State.emitDispatch_rxf (f : Frame) : (s.emitDispatch f).rxf = s.rxf := rfl
@[simp] theorem State.emitDispatch_txf (f : Frame) : (s.emitDispatch f).txf = s.txf := rfl
@[simp] theorem State.emitDispatch_rawOpen (f : Frame) : (s.emitDispatch f).rawOpen = s.rawOpen := rfl
@[simp] theorem State.emitDispatch_ev (f : Frame) : (s.emitDispatch f).ev = s.ev := rfl
@[simp] theorem State.emitDispatch_txNow (f : Frame) : (s.emitDispatch f).txNow = s.txNow := rfl
@[simp] theorem State.emitDispatch_txStream (f : Frame) : (s.emitDispatch f).txStream = s.txStream := rfl
@[simp] theorem State.emitDispatch_dispTrace (f : Frame) : (s.emitDispatch f).dispTrace = s.dispTrace ++ [f] := rfl
@[simp] theorem State.emitDispatch_evTrace (f : Frame) : (s.emitDispatch f).evTrace = s.evTrace := rfl
@[simp] theorem State.emitDispatch_fnResult (f : Frame) : (s.emitDispatch f).fnResult = s.fnResult := rfl
@[simp] theorem State.emitDispatch_script (f : Frame) : (s.emitDispatch f).script = s.script := rfl
@[simp] theorem State.emitDispatch_freeCount (f : Frame) : (s.emitDispatch f).freeCount = s.freeCount := rfl

/-! ### goto -/

@[simp] theorem State.goto_mem (a : AsmState) : (s.goto a).mem = s.mem := rfl
@[simp] theorem State.goto_rxLen (a : AsmState) : (s.goto a).rxLen = s.rxLen := rfl
@[simp] theorem State.goto_asm (a : AsmState) : (s.goto a).asm = a := rfl
@[simp] theorem State.goto_stopIdx (a : AsmState) : (s.goto a).stopIdx = s.stopIdx := rfl
@[simp] theorem State.goto_rxErr (a : AsmState) : (s.goto a).rxErr = s.rxErr := rfl
@[simp] theorem State.goto_rxf (a : AsmState) : (s.goto a).rxf = s.rxf := rfl
@[simp] theorem State.goto_txf (a : AsmState) : (s.goto a).txf = s.txf := rfl
@[simp] theorem State.goto_rawOpen (a : AsmState) : (s.goto a).rawOpen = s.rawOpen := rfl
@[simp] theorem State.goto_ev (a : AsmState) : (s.goto a).ev = s.ev := rfl
@[simp] theorem State.goto_txNow (a : AsmState) : (s.goto a).txNow = s.txNow := rfl
@[simp] theorem State.goto_txStream (a : AsmState) : (s.goto a).txStream = s.txStream := rfl
@[simp] theorem State.goto_dispTrace (a : AsmState) : (s.goto a).dispTrace = s.dispTrace := rfl
@[simp] theorem State.goto_evTrace (a : AsmState) : (s.goto a).evTrace = s.evTrace := rfl
@[simp] theorem State.goto_fnResult (a : AsmState) : (s.goto a).fnResult = s.fnResult := rfl
@[simp] theorem State.goto_script (a : AsmState) : (s.goto a).script = s.script := rfl
@[simp] theorem State.goto_freeCount (a : AsmState) : (s.goto a).freeCount = s.freeCount := rfl

/-! ### setStopIdx -/

@[simp] theorem State.setStopIdx_mem (e : Nat) : (s.setStopIdx e).mem = s.mem := rfl
@[simp] theorem State.setStopIdx_rxLen (e : Nat) : (s.setStopIdx e).rxLen = s.rxLen := rfl
@[simp] theorem State.setStopIdx_asm (e : Nat) : (s.setStopIdx e).asm = s.asm := rfl
@[simp] theorem State.setStopIdx_stopIdx (e : Nat) : (s.setStopIdx e).stopIdx = BitVec.ofNat 9 e := rfl
@[simp] theorem State.setStopIdx_rxErr (e : Nat) : (s.setStopIdx e).rxErr = s.rxErr := rfl
@[simp] theorem State.setStopIdx_rxf (e : Nat) : (s.setStopIdx e).rxf = s.rxf := rfl
@[simp] theorem State.setStopIdx_txf (e : Nat) : (s.setStopIdx e).txf = s.txf := rfl
@[simp] theorem State.setStopIdx_rawOpen (e : Nat) : (s.setStopIdx e).rawOpen = s.rawOpen := rfl
@[simp] theorem State.setStopIdx_ev (e : Nat) : (s.setStopIdx e).ev = s.ev := rfl
@[simp] theorem State.setStopIdx_txNow (e : Nat) : (s.setStopIdx e).txNow = s.txNow := rfl
@[simp] theorem State.setStopIdx_txStream (e : Nat) : (s.setStopIdx e).txStream = s.txStream := rfl
@[simp] theorem State.setStopIdx_dispTrace (e : Nat) : (s.setStopIdx e).dispTrace = s.dispTrace := rfl
@[simp] theorem State.setStopIdx_evTrace (e : Nat) : (s.setStopIdx e).evTrace = s.evTrace := rfl
@[simp] theorem State.setStopIdx_fnResult (e : Nat) : (s.setStopIdx e).fnResult = s.fnResult := rfl
@[simp] theorem State.setStopIdx_script (e : Nat) : (s.setStopIdx e).script = s.script := rfl
@[simp] theorem State.setStopIdx_freeCount (e : Nat) : (s.setStopIdx e).freeCount = s.freeCount := rfl

/-! ### setRxErr -/

@[simp] theorem State.setRxErr_mem (c : BitVec 2) : (s.setRxErr c).mem = s.mem := rfl
@[simp] theorem State.setRxErr_rxLen (c : BitVec 2) : (s.setRxErr c).rxLen = s.rxLen := rfl
@[simp] theorem State.setRxErr_asm (c : BitVec 2) : (s.setRxErr c).asm = s.asm := rfl
@[simp] theorem State.setRxErr_stopIdx (c : BitVec 2) : (s.setRxErr c).stopIdx = s.stopIdx := rfl
@[simp] theorem State.setRxErr_rxErr (c : BitVec 2) : (s.setRxErr c).rxErr = c := rfl
@[simp] theorem State.setRxErr_rxf (c : BitVec 2) : (s.setRxErr c).rxf = s.rxf := rfl
@[simp] theorem State.setRxErr_txf (c : BitVec 2) : (s.setRxErr c).txf = s.txf := rfl
@[simp] theorem State.setRxErr_rawOpen (c : BitVec 2) : (s.setRxErr c).rawOpen = s.rawOpen := rfl
@[simp] theorem State.setRxErr_ev (c : BitVec 2) : (s.setRxErr c).ev = s.ev := rfl
@[simp] theorem State.setRxErr_txNow (c : BitVec 2) : (s.setRxErr c).txNow = s.txNow := rfl
@[simp] theorem State.setRxErr_txStream (c : BitVec 2) : (s.setRxErr c).txStream = s.txStream := rfl
@[simp] theorem State.setRxErr_dispTrace (c : BitVec 2) : (s.setRxErr c).dispTrace = s.dispTrace := rfl
@[simp] theorem State.setRxErr_evTrace (c : BitVec 2) : (s.setRxErr c).evTrace = s.evTrace := rfl
@[simp] theorem State.setRxErr_fnResult (c : BitVec 2) : (s.setRxErr c).fnResult = s.fnResult := rfl
@[simp] theorem State.setRxErr_script (c : BitVec 2) : (s.setRxErr c).script = s.script := rfl
@[simp] theorem State.setRxErr_freeCount (c : BitVec 2) : (s.setRxErr c).freeCount = s.freeCount := rfl

/-! ### setRxf -/

@[simp] theorem State.setRxf_mem (f : Frame) : (s.setRxf f).mem = s.mem := rfl
@[simp] theorem State.setRxf_rxLen (f : Frame) : (s.setRxf f).rxLen = s.rxLen := rfl
@[simp] theorem State.setRxf_asm (f : Frame) : (s.setRxf f).asm = s.asm := rfl
@[simp] theorem State.setRxf_stopIdx (f : Frame) : (s.setRxf f).stopIdx = s.stopIdx := rfl
@[simp] theorem State.setRxf_rxErr (f : Frame) : (s.setRxf f).rxErr = s.rxErr := rfl
@[simp] theorem State.setRxf_rxf (f : Frame) : (s.setRxf f).rxf = f := rfl
@[simp] theorem State.setRxf_txf (f : Frame) : (s.setRxf f).txf = s.txf := rfl
@[simp] theorem State.setRxf_rawOpen (f : Frame) : (s.setRxf f).rawOpen = s.rawOpen := rfl
@[simp] theorem State.setRxf_ev (f : Frame) : (s.setRxf f).ev = s.ev := rfl
@[simp] theorem State.setRxf_txNow (f : Frame) : (s.setRxf f).txNow = s.txNow := rfl
@[simp] theorem State.setRxf_txStream (f : Frame) : (s.setRxf f).txStream = s.txStream := rfl
@[simp] theorem State.setRxf_dispTrace (f : Frame) : (s.setRxf f).dispTrace = s.dispTrace := rfl
@[simp] theorem State.setRxf_evTrace (f : Frame) : (s.setRxf f).evTrace = s.evTrace := rfl
@[simp] theorem State.setRxf_fnResult (f : Frame) : (s.setRxf f).fnResult = s.fnResult := rfl
@[simp] theorem State.setRxf_script (f : Frame) : (s.setRxf f).script = s.script := rfl
@[simp] theorem State.setRxf_freeCount (f : Frame) : (s.setRxf f).freeCount = s.freeCount := rfl

/-! ### setTxf -/

@[simp] theorem State.setTxf_mem (f : Frame) : (s.setTxf f).mem = s.mem := rfl
@[simp] theorem State.setTxf_rxLen (f : Frame) : (s.setTxf f).rxLen = s.rxLen := rfl
@[simp] theorem State.setTxf_asm (f : Frame) : (s.setTxf f).asm = s.asm := rfl
@[simp] theorem State.setTxf_stopIdx (f : Frame) : (s.setTxf f).stopIdx = s.stopIdx := rfl
@[simp] theorem State.setTxf_rxErr (f : Frame) : (s.setTxf f).rxErr = s.rxErr := rfl
@[simp] theorem State.setTxf_rxf (f : Frame) : (s.setTxf f).rxf = s.rxf := rfl
@[simp] theorem State.setTxf_txf (f : Frame) : (s.setTxf f).txf = f := rfl
@[simp] theorem State.setTxf_rawOpen (f : Frame) : (s.setTxf f).rawOpen = s.rawOpen := rfl
@[simp] theorem State.setTxf_ev (f : Frame) : (s.setTxf f).ev = s.ev := rfl
@[simp] theorem State.setTxf_txNow (f : Frame) : (s.setTxf f).txNow = s.txNow := rfl
@[simp] theorem State.setTxf_txStream (f : Frame) : (s.setTxf f).txStream = s.txStream := rfl
@[simp] theorem State.setTxf_dispTrace (f : Frame) : (s.setTxf f).dispTrace = s.dispTrace := rfl
@[simp] theorem State.setTxf_evTrace (f : Frame) : (s.setTxf f).evTrace = s.evTrace := rfl
@[simp] theorem State.setTxf_fnResult (f : Frame) : (s.setTxf f).fnResult = s.fnResult := rfl
@[simp] theorem State.setTxf_script (f : Frame) : (s.setTxf f).script = s.script := rfl
@[simp] theorem State.setTxf_freeCount (f : Frame) : (s.setTxf f).freeCount = s.freeCount := rfl

/-! ### setRawOpen -/

@[simp] theorem State.setRawOpen_mem (b : Bool) : (s.setRawOpen b).mem = s.mem := rfl
@[simp] theorem State.setRawOpen_rxLen (b : Bool) : (s.setRawOpen b).rxLen = s.rxLen := rfl
@[simp] theorem State.setRawOpen_asm (b : Bool) : (s.setRawOpen b).asm = s.asm := rfl
@[simp] theorem State.setRawOpen_stopIdx (b : Bool) : (s.setRawOpen b).stopIdx = s.stopIdx := rfl
@[simp] theorem State.setRawOpen_rxErr (b : Bool) : (s.setRawOpen b).rxErr = s.rxErr := rfl
@[simp] theorem State.setRawOpen_rxf (b : Bool) : (s.setRawOpen b).rxf = s.rxf := rfl
@[simp] theorem State.setRawOpen_txf (b : Bool) : (s.setRawOpen b).txf = s.txf := rfl
@[simp] theorem State.setRawOpen_rawOpen (b : Bool) : (s.setRawOpen b).rawOpen = b := rfl
@[simp] theorem State.setRawOpen_ev (b : Bool) : (s.setRawOpen b).ev = s.ev := rfl
@[simp] theorem State.setRawOpen_txNow (b : Bool) : (s.setRawOpen b).txNow = s.txNow := rfl
@[simp] theorem State.setRawOpen_txStream (b : Bool) : (s.setRawOpen b).txStream = s.txStream := rfl
@[simp] theorem State.setRawOpen_dispTrace (b : Bool) : (s.setRawOpen b).dispTrace = s.dispTrace := rfl
@[simp] theorem State.setRawOpen_evTrace (b : Bool) : (s.setRawOpen b).evTrace = s.evTrace := rfl
@[simp] theorem State.setRawOpen_fnResult (b : Bool) : (s.setRawOpen b).fnResult = s.fnResult := rfl
@[simp] theorem State.setRawOpen_script (b : Bool) : (s.setRawOpen b).script = s.script := rfl
@[simp] theorem State.setRawOpen_freeCount (b : Bool) : (s.setRawOpen b).freeCount = s.freeCount := rfl

/-! ### answer -/

@[simp] theorem State.answer_mem (r : FnResult) : (s.answer r).mem = s.mem := rfl
@[simp] theorem State.answer_rxLen (r : FnResult) : (s.answer r).rxLen = s.rxLen := rfl
@[simp] theorem State.answer_asm (r : FnResult) : (s.answer r).asm = s.asm := rfl
@[simp] theorem State.answer_stopIdx (r : FnResult) : (s.answer r).stopIdx = s.stopIdx := rfl
@[simp] theorem State.answer_rxErr (r : FnResult) : (s.answer r).rxErr = s.rxErr := rfl
@[simp] theorem State.answer_rxf (r : FnResult) : (s.answer r).rxf = s.rxf := rfl
@[simp] theorem State.answer_txf (r : FnResult) : (s.answer r).txf = s.txf := rfl
@[simp] theorem State.answer_rawOpen (r : FnResult) : (s.answer r).rawOpen = s.rawOpen := rfl
@[simp] theorem State.answer_ev (r : FnResult) : (s.answer r).ev = s.ev := rfl
@[simp] theorem State.answer_txNow (r : FnResult) : (s.answer r).txNow = s.txNow := rfl
@[simp] theorem State.answer_txStream (r : FnResult) : (s.answer r).txStream = s.txStream := rfl
@[simp] theorem State.answer_dispTrace (r : FnResult) : (s.answer r).dispTrace = s.dispTrace := rfl
@[simp] theorem State.answer_evTrace (r : FnResult) : (s.answer r).evTrace = s.evTrace := rfl
@[simp] theorem State.answer_fnResult (r : FnResult) : (s.answer r).fnResult = some r := rfl
@[simp] theorem State.answer_script (r : FnResult) : (s.answer r).script = s.script := rfl
@[simp] theorem State.answer_freeCount (r : FnResult) : (s.answer r).freeCount = s.freeCount := rfl

/-! ### setScript -/

@[simp] theorem State.setScript_mem (rs : List Request) : (s.setScript rs).mem = s.mem := rfl
@[simp] theorem State.setScript_rxLen (rs : List Request) : (s.setScript rs).rxLen = s.rxLen := rfl
@[simp] theorem State.setScript_asm (rs : List Request) : (s.setScript rs).asm = s.asm := rfl
@[simp] theorem State.setScript_stopIdx (rs : List Request) : (s.setScript rs).stopIdx = s.stopIdx := rfl
@[simp] theorem State.setScript_rxErr (rs : List Request) : (s.setScript rs).rxErr = s.rxErr := rfl
@[simp] theorem State.setScript_rxf (rs : List Request) : (s.setScript rs).rxf = s.rxf := rfl
@[simp] theorem State.setScript_txf (rs : List Request) : (s.setScript rs).txf = s.txf := rfl
@[simp] theorem State.setScript_rawOpen (rs : List Request) : (s.setScript rs).rawOpen = s.rawOpen := rfl
@[simp] theorem State.setScript_ev (rs : List Request) : (s.setScript rs).ev = s.ev := rfl
@[simp] theorem State.setScript_txNow (rs : List Request) : (s.setScript rs).txNow = s.txNow := rfl
@[simp] theorem State.setScript_txStream (rs : List Request) : (s.setScript rs).txStream = s.txStream := rfl
@[simp] theorem State.setScript_dispTrace (rs : List Request) : (s.setScript rs).dispTrace = s.dispTrace := rfl
@[simp] theorem State.setScript_evTrace (rs : List Request) : (s.setScript rs).evTrace = s.evTrace := rfl
@[simp] theorem State.setScript_fnResult (rs : List Request) : (s.setScript rs).fnResult = s.fnResult := rfl
@[simp] theorem State.setScript_script (rs : List Request) : (s.setScript rs).script = rs := rfl
@[simp] theorem State.setScript_freeCount (rs : List Request) : (s.setScript rs).freeCount = s.freeCount := rfl

/-! ### forgetDispatched -/

@[simp] theorem State.forgetDispatched_mem : (s.forgetDispatched).mem = s.mem := rfl
@[simp] theorem State.forgetDispatched_rxLen : (s.forgetDispatched).rxLen = s.rxLen := rfl
@[simp] theorem State.forgetDispatched_asm : (s.forgetDispatched).asm = s.asm := rfl
@[simp] theorem State.forgetDispatched_stopIdx : (s.forgetDispatched).stopIdx = Config.freeStopIdx s.freeCount := rfl
@[simp] theorem State.forgetDispatched_rxErr : (s.forgetDispatched).rxErr = s.rxErr := rfl
@[simp] theorem State.forgetDispatched_rxf : (s.forgetDispatched).rxf = freeFrame s.freeCount := rfl
@[simp] theorem State.forgetDispatched_txf : (s.forgetDispatched).txf = s.txf := rfl
@[simp] theorem State.forgetDispatched_rawOpen : (s.forgetDispatched).rawOpen = s.rawOpen := rfl
@[simp] theorem State.forgetDispatched_ev : (s.forgetDispatched).ev = s.ev := rfl
@[simp] theorem State.forgetDispatched_txNow : (s.forgetDispatched).txNow = s.txNow := rfl
@[simp] theorem State.forgetDispatched_txStream : (s.forgetDispatched).txStream = s.txStream := rfl
@[simp] theorem State.forgetDispatched_dispTrace : (s.forgetDispatched).dispTrace = s.dispTrace := rfl
@[simp] theorem State.forgetDispatched_evTrace : (s.forgetDispatched).evTrace = s.evTrace := rfl
@[simp] theorem State.forgetDispatched_fnResult : (s.forgetDispatched).fnResult = s.fnResult := rfl
@[simp] theorem State.forgetDispatched_script : (s.forgetDispatched).script = s.script := rfl
@[simp] theorem State.forgetDispatched_freeCount : (s.forgetDispatched).freeCount = s.freeCount + 1 := rfl

/-! ### forgetDiscarded -/

@[simp] theorem State.forgetDiscarded_mem : (s.forgetDiscarded).mem = s.mem := rfl
@[simp] theorem State.forgetDiscarded_rxLen : (s.forgetDiscarded).rxLen = s.rxLen := rfl
@[simp] theorem State.forgetDiscarded_asm : (s.forgetDiscarded).asm = s.asm := rfl
@[simp] theorem State.forgetDiscarded_stopIdx : (s.forgetDiscarded).stopIdx = Config.freeStopIdx s.freeCount := rfl
@[simp] theorem State.forgetDiscarded_rxErr : (s.forgetDiscarded).rxErr = Config.freeRxErr s.freeCount := rfl
@[simp] theorem State.forgetDiscarded_rxf : (s.forgetDiscarded).rxf = s.rxf := rfl
@[simp] theorem State.forgetDiscarded_txf : (s.forgetDiscarded).txf = s.txf := rfl
@[simp] theorem State.forgetDiscarded_rawOpen : (s.forgetDiscarded).rawOpen = s.rawOpen := rfl
@[simp] theorem State.forgetDiscarded_ev : (s.forgetDiscarded).ev = s.ev := rfl
@[simp] theorem State.forgetDiscarded_txNow : (s.forgetDiscarded).txNow = s.txNow := rfl
@[simp] theorem State.forgetDiscarded_txStream : (s.forgetDiscarded).txStream = s.txStream := rfl
@[simp] theorem State.forgetDiscarded_dispTrace : (s.forgetDiscarded).dispTrace = s.dispTrace := rfl
@[simp] theorem State.forgetDiscarded_evTrace : (s.forgetDiscarded).evTrace = s.evTrace := rfl
@[simp] theorem State.forgetDiscarded_fnResult : (s.forgetDiscarded).fnResult = s.fnResult := rfl
@[simp] theorem State.forgetDiscarded_script : (s.forgetDiscarded).script = s.script := rfl
@[simp] theorem State.forgetDiscarded_freeCount : (s.forgetDiscarded).freeCount = s.freeCount + 1 := rfl

/-! ### forgetAll -/

@[simp] theorem State.forgetAll_mem : (s.forgetAll).mem = s.mem := rfl
@[simp] theorem State.forgetAll_rxLen : (s.forgetAll).rxLen = s.rxLen := rfl
@[simp] theorem State.forgetAll_asm : (s.forgetAll).asm = s.asm := rfl
@[simp] theorem State.forgetAll_stopIdx : (s.forgetAll).stopIdx = Config.freeStopIdx s.freeCount := rfl
@[simp] theorem State.forgetAll_rxErr : (s.forgetAll).rxErr = Config.freeRxErr s.freeCount := rfl
@[simp] theorem State.forgetAll_rxf : (s.forgetAll).rxf = freeFrame s.freeCount := rfl
@[simp] theorem State.forgetAll_txf : (s.forgetAll).txf = freeFrame (s.freeCount + 1) := rfl
@[simp] theorem State.forgetAll_rawOpen : (s.forgetAll).rawOpen = s.rawOpen := rfl
@[simp] theorem State.forgetAll_ev : (s.forgetAll).ev = s.ev := rfl
@[simp] theorem State.forgetAll_txNow : (s.forgetAll).txNow = s.txNow := rfl
@[simp] theorem State.forgetAll_txStream : (s.forgetAll).txStream = s.txStream := rfl
@[simp] theorem State.forgetAll_dispTrace : (s.forgetAll).dispTrace = s.dispTrace := rfl
@[simp] theorem State.forgetAll_evTrace : (s.forgetAll).evTrace = s.evTrace := rfl
@[simp] theorem State.forgetAll_fnResult : (s.forgetAll).fnResult = s.fnResult := rfl
@[simp] theorem State.forgetAll_script : (s.forgetAll).script = s.script := rfl
@[simp] theorem State.forgetAll_freeCount : (s.forgetAll).freeCount = s.freeCount + 2 := rfl

end Sys2Proof.Machine
end

