-- ==== Sys2Proof/Laws/Memory.lean ====
section
/-! SUPPORT. The receive buffer: what each operation on the cells does to a read and to the canonical form, and what
APPEND, COMPACT and RESETBUF do to the sequence `rx_buf[0..rx_len)` (R51 to R55). -/

namespace Sys2Proof.Machine

/-! ### Cells -/

@[simp] theorem Memory.read_nil (a : Nat) : Memory.read [] a = none := rfl

theorem Memory.read_write (m : Memory) (a i : Nat) (v : Byte) :
    (m.write a v).read i = if i = a then some v else m.read i := by
  induction m with
  | nil => by_cases h : a = i <;> simp [Memory.write, Memory.read, h, eq_comm]
  | cons c t ih =>
    obtain ⟨k, w⟩ := c
    simp only [Memory.write]
    split
    · by_cases h : a = i <;> simp [Memory.read, h, eq_comm]
    · split
      · rename_i hk
        by_cases h : a = i
        · simp [Memory.read, h]
        · simp [Memory.read, h, ← hk, eq_comm]
      · rename_i hlt hne
        simp only [Memory.read, ih]
        by_cases h : k = i
        · subst h; simp [Ne.symm hne]
        · simp [h]

theorem Memory.read_shift (m : Memory) (k n i : Nat) :
    (m.shift k n).read i = if i + k < n then m.read (i + k) else none := by
  induction m with
  | nil => simp [Memory.shift]
  | cons c t ih =>
    obtain ⟨a, v⟩ := c
    simp only [Memory.shift, List.filterMap_cons] at ih ⊢
    by_cases hin : k ≤ a ∧ a < n
    · simp only [hin, and_self, ↓reduceIte, Memory.read, ih]
      by_cases h : a = i + k
      · subst h; simp [hin.2]
      · have : a - k ≠ i := by omega
        simp [this, h]
    · simp only [hin, ↓reduceIte, Memory.read, ih]
      by_cases h : a = i + k
      · have : ¬ i + k < n := by omega
        simp [this]
      · simp [h]

/-! ### The canonical form -/

theorem Memory.wf_nil : Memory.Wf [] := List.Pairwise.nil

theorem Memory.wf_iff (m : Memory) : m.wf = true ↔ m.Wf := by simp [Memory.wf]

theorem Memory.mem_write_keys (m : Memory) (a x : Nat) (v : Byte)
    (h : x ∈ (m.write a v).map Prod.fst) : x = a ∨ x ∈ m.map Prod.fst := by
  induction m with
  | nil => simpa [Memory.write] using h
  | cons c t ih =>
    obtain ⟨k, w⟩ := c
    simp only [Memory.write] at h
    split at h
    · simpa using h
    · split at h
      · simp only [List.map_cons, List.mem_cons] at h ⊢; tauto
      · simp only [List.map_cons, List.mem_cons] at h ⊢
        rcases h with h | h
        · exact .inr (.inl h)
        · rcases ih h with h | h
          · exact .inl h
          · exact .inr (.inr h)

theorem Memory.wf_write (m : Memory) (a : Nat) (v : Byte) (h : m.Wf) : (m.write a v).Wf := by
  induction m with
  | nil => simp [Memory.write, Memory.Wf]
  | cons c t ih =>
    obtain ⟨k, w⟩ := c
    obtain ⟨hk, ht⟩ := List.pairwise_cons.mp h
    simp only [Memory.write]
    split
    · rename_i hlt
      refine List.pairwise_cons.mpr ⟨fun x hx => ?_, h⟩
      rcases List.mem_cons.mp hx with rfl | hx
      · exact hlt
      · exact hlt.trans (hk x hx)
    · split
      · rename_i heq
        exact List.pairwise_cons.mpr ⟨heq ▸ hk, ht⟩
      · rename_i hlt hne
        refine List.pairwise_cons.mpr ⟨fun x hx => ?_, ih ht⟩
        rcases Memory.mem_write_keys t a x v hx with rfl | hx
        · simp only at hlt hne ⊢; omega
        · exact hk x hx

theorem Memory.mem_shift_keys (m : Memory) (k n x : Nat) (h : x ∈ (m.shift k n).map Prod.fst) :
    x + k ∈ m.map Prod.fst := by
  simp only [Memory.shift, List.mem_map, List.mem_filterMap] at h ⊢
  obtain ⟨⟨y, v⟩, ⟨⟨a, w⟩, ha, hf⟩, rfl⟩ := h
  split at hf
  · rename_i hin
    simp only [Option.some.injEq, Prod.mk.injEq] at hf
    refine ⟨(a, w), ha, ?_⟩
    simp only at hin ⊢; omega
  · exact absurd hf (by simp)

theorem Memory.wf_shift (m : Memory) (k n : Nat) (h : m.Wf) : (m.shift k n).Wf := by
  induction m with
  | nil => simp [Memory.shift, Memory.Wf]
  | cons c t ih =>
    obtain ⟨a, v⟩ := c
    obtain ⟨ha, ht⟩ := List.pairwise_cons.mp h
    by_cases hin : k ≤ a ∧ a < n
    · have : Memory.shift ((a, v) :: t) k n = (a - k, v) :: Memory.shift t k n := by
        simp [Memory.shift, hin]
      rw [this]
      refine List.pairwise_cons.mpr ⟨fun x hx => ?_, ih ht⟩
      have := ha _ (Memory.mem_shift_keys t k n x hx)
      simp only at this ⊢; omega
    · have : Memory.shift ((a, v) :: t) k n = Memory.shift t k n := by
        simp [Memory.shift, hin]
      rw [this]; exact ih ht

/-! ### No gaps: the indices listed are 0, 1, …, n−1 -/

theorem Memory.keys_write_end (m : Memory) (n : Nat) (v : Byte) (h : ∀ x ∈ m.map Prod.fst, x < n) :
    (m.write n v).map Prod.fst = m.map Prod.fst ++ [n] := by
  induction m with
  | nil => simp [Memory.write]
  | cons c t ih =>
    obtain ⟨k, w⟩ := c
    have hk : k < n := h k (by simp)
    simp only [Memory.write, Nat.not_lt.mpr hk.le, ↓reduceIte, hk.ne', List.map_cons, List.cons_append,
      List.cons.injEq, true_and]
    exact ih fun x hx => h x (by simp [hx])

theorem Memory.keys_shift (m : Memory) (k n : Nat) :
    (m.shift k n).map Prod.fst = ((m.map Prod.fst).filter fun a => k ≤ a ∧ a < n).map (· - k) := by
  induction m with
  | nil => simp [Memory.shift]
  | cons c t ih =>
    obtain ⟨a, v⟩ := c
    simp only [Memory.shift, List.filterMap_cons, List.map_cons, List.filter_cons] at ih ⊢
    by_cases hin : k ≤ a ∧ a < n <;> simp [hin, ih]

theorem Memory.keys_shift_range (m : Memory) (k n : Nat) (h : m.map Prod.fst = List.range n) :
    (m.shift k n).map Prod.fst = List.range (n - k) := by
  rw [Memory.keys_shift, h]
  rcases Nat.le_total k n with hk | hk
  · obtain ⟨d, rfl⟩ := Nat.exists_eq_add_of_le hk
    rw [List.range_add, List.filter_append]
    have h1 : (List.range k).filter (fun a => decide (k ≤ a ∧ a < k + d)) = [] := by
      simp [List.filter_eq_nil_iff]; omega
    have h2 : ((List.range d).map (k + ·)).filter (fun a => decide (k ≤ a ∧ a < k + d)) = (List.range d).map (k + ·) := by
      simp [List.filter_eq_self]
    rw [h1, h2]
    simp [Function.comp_def]
  · have : (List.range n).filter (fun a => decide (k ≤ a ∧ a < n)) = [] := by
      simp only [List.filter_eq_nil_iff, List.mem_range, decide_eq_true_eq]; omega
    rw [this, Nat.sub_eq_zero_of_le hk]; rfl

theorem Memory.wf_of_keys (m : Memory) (n : Nat) (h : m.map Prod.fst = List.range n) : m.Wf := by
  rw [Memory.Wf, h]; exact List.pairwise_lt_range

theorem Memory.read_isSome (m : Memory) (i : Nat) : (m.read i).isSome = true ↔ i ∈ m.map Prod.fst := by
  induction m with
  | nil => simp
  | cons c t ih =>
    obtain ⟨k, w⟩ := c
    by_cases h : k = i
    · simp [Memory.read, h]
    · simp only [Memory.read, h, ↓reduceIte, ih, List.map_cons, List.mem_cons]
      constructor
      · exact .inr
      · rintro (h' | h')
        · exact absurd h'.symm h
        · exact h'

/-! ### The sequence `rx_buf[0..rx_len)` -/

theorem State.memRead_def (s : State) (i : Nat) :
    s.memRead i = if i < s.rxLen.toNat then s.mem.read i else none := rfl

/-- A read at or above `rx_len` has no value (R51). -/
theorem State.memRead_none (s : State) {i : Nat} (h : s.rxLen.toNat ≤ i) : s.memRead i = none := by
  simp [State.memRead_def, Nat.not_lt.mpr h]

/-- A read depends on the cells and the counter only. -/
theorem State.memRead_congr {s t : State} (hm : t.mem = s.mem) (hl : t.rxLen = s.rxLen) (i : Nat) :
    t.memRead i = s.memRead i := by simp [State.memRead_def, hm, hl]

/-! A read depends on the cells and the counter only: every other update leaves it. -/

@[simp] theorem State.memRead_newTransaction (s : State) (i : Nat) : (s.newTransaction).memRead i = s.memRead i := rfl
@[simp] theorem State.memRead_pulsesAfter (s u : State) (i : Nat) : (s.pulsesAfter u).memRead i = s.memRead i := rfl
@[simp] theorem State.memRead_raise (s : State) (e : ErrorName) (n : Nat) (i : Nat) : (s.raise e n).memRead i = s.memRead i := rfl
@[simp] theorem State.memRead_emitTx (s : State) (w : List Byte) (i : Nat) : (s.emitTx w).memRead i = s.memRead i := rfl
@[simp] theorem State.memRead_emitDispatch (s : State) (f : Frame) (i : Nat) : (s.emitDispatch f).memRead i = s.memRead i := rfl
@[simp] theorem State.memRead_goto (s : State) (a : AsmState) (i : Nat) : (s.goto a).memRead i = s.memRead i := rfl
@[simp] theorem State.memRead_setStopIdx (s : State) (e : Nat) (i : Nat) : (s.setStopIdx e).memRead i = s.memRead i := rfl
@[simp] theorem State.memRead_setRxErr (s : State) (c : BitVec 2) (i : Nat) : (s.setRxErr c).memRead i = s.memRead i := rfl
@[simp] theorem State.memRead_setRxf (s : State) (f : Frame) (i : Nat) : (s.setRxf f).memRead i = s.memRead i := rfl
@[simp] theorem State.memRead_setTxf (s : State) (f : Frame) (i : Nat) : (s.setTxf f).memRead i = s.memRead i := rfl
@[simp] theorem State.memRead_setRawOpen (s : State) (b : Bool) (i : Nat) : (s.setRawOpen b).memRead i = s.memRead i := rfl
@[simp] theorem State.memRead_answer (s : State) (r : FnResult) (i : Nat) : (s.answer r).memRead i = s.memRead i := rfl
@[simp] theorem State.memRead_setScript (s : State) (rs : List Request) (i : Nat) : (s.setScript rs).memRead i = s.memRead i := rfl
@[simp] theorem State.memRead_forgetDispatched (s : State) (i : Nat) : (s.forgetDispatched).memRead i = s.memRead i := rfl
@[simp] theorem State.memRead_forgetDiscarded (s : State) (i : Nat) : (s.forgetDiscarded).memRead i = s.memRead i := rfl
@[simp] theorem State.memRead_forgetAll (s : State) (i : Nat) : (s.forgetAll).memRead i = s.memRead i := rfl

/-- A range of reads depends on the cells and the counter only. -/
theorem State.readRange_congr {s t : State} (h : ∀ i, t.memRead i = s.memRead i) (n : Nat) :
    ∀ i, t.readRange i n = s.readRange i n := by
  induction n with
  | zero => intro i; rfl
  | succ n ih => intro i; simp only [State.readRange, h, ih]

theorem State.Holds.congr {s t : State} {buf : List Byte} (hm : t.mem = s.mem) (hl : t.rxLen = s.rxLen)
    (h : s.Holds buf) : t.Holds buf :=
  ⟨by rw [hl]; exact h.1, fun i => by rw [State.memRead_congr hm hl]; exact h.2 i⟩

/-- What a state's buffer holds is determined. -/
theorem State.Holds.unique {s : State} {a b : List Byte} (ha : s.Holds a) (hb : s.Holds b) : a = b :=
  List.ext_getElem? fun i => by rw [← ha.2, ← hb.2]

theorem State.Holds.length_lt {s : State} {buf : List Byte} (h : s.Holds buf) : buf.length < 512 := by
  rw [← h.1]; exact s.rxLen.isLt

theorem State.Holds.rxLen_eq {s : State} {buf : List Byte} (h : s.Holds buf) :
    s.rxLen = BitVec.ofNat 9 buf.length := by
  rw [← h.1]; simp

/-- A range of reads inside the buffer gives that part of the sequence. -/
theorem State.readRange_of_holds {s : State} {buf : List Byte} (h : s.Holds buf) (n : Nat) :
    ∀ i, i + n ≤ buf.length → s.readRange i n = some ((buf.drop i).take n) := by
  induction n with
  | zero => intro i _; simp [State.readRange]
  | succ n ih =>
    intro i hi
    have hb : buf[i]? = some buf[i] := List.getElem?_eq_getElem (by omega)
    simp only [State.readRange, h.2, hb, ih (i + 1) (by omega)]
    rw [List.drop_eq_getElem_cons (by omega : i < buf.length), List.take_succ_cons]

theorem State.buffer_of_holds {s : State} {buf : List Byte} (h : s.Holds buf) : s.buffer = some buf := by
  rw [State.buffer, State.readRange_of_holds h _ 0 (by rw [h.1]; omega), h.1]
  simp

/-- A range of reads that has a value is inside the buffer. -/
theorem State.readRange_length {s : State} {n : Nat} :
    ∀ {i : Nat} {l : List Byte}, s.readRange i n = some l → l.length = n := by
  induction n with
  | zero => intro i l h; simp_all [State.readRange]
  | succ n ih =>
    intro i l h
    simp only [State.readRange] at h
    split at h
    · rename_i b t hb ht
      obtain rfl := Option.some.inj h
      simp [ih ht]
    · exact absurd h (by simp)

/-- Where every cell below `rx_len` holds a byte, the buffer holds a sequence. -/
theorem State.holds_of_keys {s : State} (h : s.mem.map Prod.fst = List.range s.rxLen.toNat) :
    ∃ buf, s.Holds buf := by
  refine ⟨(List.range s.rxLen.toNat).map fun i => (s.mem.read i).getD 0, by simp, fun i => ?_⟩
  by_cases hi : i < s.rxLen.toNat
  · obtain ⟨v, hv⟩ := Option.isSome_iff_exists.mp ((Memory.read_isSome s.mem i).mpr (by rw [h]; simpa using hi))
    simp [State.memRead_def, hi, hv]
  · simp [State.memRead_def, hi]

/-- In a state whose buffer is in order the buffer holds a sequence of at most CAPACITY bytes (R26). -/
theorem BufferOk.holds {s : State} (h : BufferOk s) : ∃ buf, s.Holds buf ∧ buf.length ≤ Config.capacity := by
  obtain ⟨buf, hb⟩ := State.holds_of_keys h.1
  exact ⟨buf, hb, hb.1 ▸ h.2⟩

/-- The memory of a state whose buffer is in order is canonical. -/
theorem BufferOk.wf {s : State} (h : BufferOk s) : s.mem.Wf := Memory.wf_of_keys _ _ h.1

/-- The span in hand depends on the cells, the counter and `stop_idx` only. -/
theorem State.span_congr {s t : State} (hm : t.mem = s.mem) (hl : t.rxLen = s.rxLen) (hs : t.stopIdx = s.stopIdx) :
    t.span = s.span := by
  unfold State.span; rw [hs]; exact State.readRange_congr (State.memRead_congr hm hl) _ _

@[simp] theorem State.span_newTransaction (s : State) : (s.newTransaction).span = s.span :=
  State.span_congr (s := s) rfl rfl rfl

@[simp] theorem State.span_pulsesAfter (s u : State) : (s.pulsesAfter u).span = s.span :=
  State.span_congr (s := s) rfl rfl rfl

@[simp] theorem State.span_raise (s : State) (e : ErrorName) (n : Nat) : (s.raise e n).span = s.span :=
  State.span_congr (s := s) rfl rfl rfl

@[simp] theorem State.span_emitTx (s : State) (w : List Byte) : (s.emitTx w).span = s.span :=
  State.span_congr (s := s) rfl rfl rfl

@[simp] theorem State.span_emitDispatch (s : State) (f : Frame) : (s.emitDispatch f).span = s.span :=
  State.span_congr (s := s) rfl rfl rfl

@[simp] theorem State.span_goto (s : State) (a : AsmState) : (s.goto a).span = s.span :=
  State.span_congr (s := s) rfl rfl rfl

@[simp] theorem State.span_setRxErr (s : State) (c : BitVec 2) : (s.setRxErr c).span = s.span :=
  State.span_congr (s := s) rfl rfl rfl

@[simp] theorem State.span_setRxf (s : State) (f : Frame) : (s.setRxf f).span = s.span :=
  State.span_congr (s := s) rfl rfl rfl

@[simp] theorem State.span_setTxf (s : State) (f : Frame) : (s.setTxf f).span = s.span :=
  State.span_congr (s := s) rfl rfl rfl

@[simp] theorem State.span_setRawOpen (s : State) (b : Bool) : (s.setRawOpen b).span = s.span :=
  State.span_congr (s := s) rfl rfl rfl

@[simp] theorem State.span_answer (s : State) (r : FnResult) : (s.answer r).span = s.span :=
  State.span_congr (s := s) rfl rfl rfl

@[simp] theorem State.span_setScript (s : State) (rs : List Request) : (s.setScript rs).span = s.span :=
  State.span_congr (s := s) rfl rfl rfl

/-- Two states whose reads agree on a range agree on the range. -/
theorem State.readRange_agree {s t : State} (n : Nat) :
    ∀ i, (∀ j, i ≤ j → j < i + n → t.memRead j = s.memRead j) → t.readRange i n = s.readRange i n := by
  induction n with
  | zero => intros; rfl
  | succ n ih =>
    intro i h
    simp only [State.readRange]
    rw [h i (by omega) (by omega), ih (i + 1) fun j h1 h2 => h j (by omega) (by omega)]

/-! ### APPEND, COMPACT, RESETBUF on the sequence (R53, R54, R55) -/

theorem rxLen_add_one {s : State} (h : s.rxLen.toNat < Config.capacity) :
    (s.rxLen + 1).toNat = s.rxLen.toNat + 1 := by
  have : s.rxLen.toNat < 500 := h
  rw [BitVec.toNat_add]; simp; omega

theorem rxLen_sub {s : State} {k : Nat} (h : k ≤ s.rxLen.toNat) :
    (s.rxLen - BitVec.ofNat 9 k).toNat = s.rxLen.toNat - k := by
  have := s.rxLen.isLt
  rw [BitVec.toNat_sub]; simp only [BitVec.toNat_ofNat]; omega

theorem State.memRead_append (s : State) (b : Byte) (i : Nat) (h : s.rxLen.toNat < Config.capacity) :
    (s.append b).memRead i = if i = s.rxLen.toNat then some b else s.memRead i := by
  rw [State.memRead_def, State.append_rxLen, rxLen_add_one h, State.append_mem, Memory.read_write]
  by_cases hi : i = s.rxLen.toNat
  · simp [hi]
  · by_cases hlt : i < s.rxLen.toNat
    · simp [hi, hlt, State.memRead_def, Nat.lt_succ_of_lt hlt]
    · have : ¬ i < s.rxLen.toNat + 1 := by omega
      simp [hi, hlt, State.memRead_def, this]

theorem State.memRead_dropFront (s : State) (k i : Nat) (h : k ≤ s.rxLen.toNat) :
    (s.dropFront k).memRead i = s.memRead (i + k) := by
  rw [State.memRead_def, State.dropFront_rxLen, rxLen_sub h, State.dropFront_mem, Memory.read_shift,
    State.memRead_def]
  by_cases hi : i + k < s.rxLen.toNat
  · have : i < s.rxLen.toNat - k := by omega
    simp [hi, this]
  · have : ¬ i < s.rxLen.toNat - k := by omega
    simp [hi, this]

theorem State.Holds.append {s : State} {buf : List Byte} (h : s.Holds buf) (b : Byte)
    (hl : buf.length < Config.capacity) : (s.append b).Holds (buf ++ [b]) := by
  have hs : s.rxLen.toNat < Config.capacity := h.1 ▸ hl
  refine ⟨by rw [State.append_rxLen, rxLen_add_one hs, h.1]; simp, fun i => ?_⟩
  rw [State.memRead_append s b i hs, h.1, h.2]
  by_cases hi : i = buf.length
  · simp [hi]
  · simp only [hi, ↓reduceIte]
    rcases Nat.lt_or_ge i buf.length with h' | h'
    · rw [List.getElem?_append_left h']
    · rw [List.getElem?_eq_none h', List.getElem?_eq_none (by simp; omega)]

theorem State.Holds.dropFront {s : State} {buf : List Byte} (h : s.Holds buf) (k : Nat) (hk : k ≤ buf.length) :
    (s.dropFront k).Holds (buf.drop k) := by
  have hs : k ≤ s.rxLen.toNat := h.1 ▸ hk
  refine ⟨by simp [rxLen_sub hs, h.1], fun i => ?_⟩
  rw [State.memRead_dropFront s k i hs, h.2, List.getElem?_drop, Nat.add_comm]

theorem State.holds_resetBuf (s : State) : s.resetBuf.Holds [] :=
  ⟨rfl, fun i => by simp [State.memRead_def]⟩

/-- COMPACT(k) answers exactly where its precondition holds, with the k oldest bytes gone. -/
theorem State.compact_of_le {s : State} {k : Nat} (h : k ≤ s.rxLen.toNat) :
    s.compact k = .ok (s.dropFront k) := by simp [State.compact, h]

/-- Everything COMPACT can do. -/
theorem State.compact_cases {s t : State} {k : Nat} (h : s.compact k = .ok t) :
    k ≤ s.rxLen.toNat ∧ t = s.dropFront k := by
  unfold State.compact at h
  split at h
  · exact ⟨‹_›, (Except.ok.inj h).symm⟩
  · cases h

theorem State.compact_error {s : State} {k : Nat} {e : Fault} (h : s.compact k = .error e) :
    e = .compactPastEnd ∧ s.rxLen.toNat < k := by
  unfold State.compact at h
  split at h
  · cases h
  · exact ⟨(Except.error.inj h).symm, by omega⟩

theorem BufferOk.append {s : State} (h : BufferOk s) (b : Byte) (hl : s.rxLen.toNat < Config.capacity) :
    BufferOk (s.append b) := by
  constructor
  · rw [State.append_mem, State.append_rxLen, rxLen_add_one hl, List.range_succ, ← h.1]
    exact Memory.keys_write_end _ _ _ fun x hx => by rw [h.1] at hx; simpa using hx
  · rw [State.append_rxLen, rxLen_add_one hl]; exact hl

theorem BufferOk.dropFront {s : State} (h : BufferOk s) (k : Nat) (hk : k ≤ s.rxLen.toNat) :
    BufferOk (s.dropFront k) := by
  constructor
  · rw [State.dropFront_mem, State.dropFront_rxLen, rxLen_sub hk]
    exact Memory.keys_shift_range _ _ _ h.1
  · rw [State.dropFront_rxLen, rxLen_sub hk]
    exact (Nat.sub_le _ _).trans h.2

theorem bufferOk_resetBuf (s : State) : BufferOk s.resetBuf := by
  constructor
  · simp
  · simp

theorem BufferOk.congr {s t : State} (hm : t.mem = s.mem) (hl : t.rxLen = s.rxLen) (h : BufferOk s) :
    BufferOk t := by rw [BufferOk, hm, hl]; exact h

/-! ### `find` (R9) -/

theorem find_eq_some {l : List Byte} {b : Byte} {n e : Nat} (h : find l b n = some e) :
    n ≤ e ∧ l[e]? = some b ∧ ∀ i, n ≤ i → i < e → l[i]? ≠ some b := by
  simp only [find, Option.map_eq_some_iff, List.findIdx?_eq_some_iff_getElem] at h
  obtain ⟨j, ⟨hj, hb, hmin⟩, rfl⟩ := h
  refine ⟨by omega, ?_, fun i hi hlt => ?_⟩
  · rw [List.length_drop] at hj
    rw [List.getElem_drop] at hb
    rw [List.getElem?_eq_getElem (by omega)]
    simp only [beq_iff_eq] at hb
    rw [← hb]; simp [Nat.add_comm]
  · obtain ⟨d, rfl⟩ := Nat.exists_eq_add_of_le hi
    have hd : d < j := by omega
    have hx := hmin d hd
    rw [List.getElem_drop] at hx
    rw [List.length_drop] at hj
    rw [List.getElem?_eq_getElem (by omega)]
    simpa using hx

theorem find_eq_none {l : List Byte} {b : Byte} {n : Nat} (h : find l b n = none) :
    ∀ i, n ≤ i → l[i]? ≠ some b := by
  simp only [find, Option.map_eq_none_iff, List.findIdx?_eq_none_iff, beq_eq_false_iff_ne] at h
  intro i hi hc
  refine h b ?_ rfl
  rw [List.mem_iff_getElem?]
  exact ⟨i - n, by rw [List.getElem?_drop]; rwa [Nat.add_sub_cancel' hi]⟩

/-- The converse: the first position at or after n that holds b is what `find` gives. -/
theorem find_of_first {l : List Byte} {b : Byte} {n e : Nat} (hn : n ≤ e) (he : l[e]? = some b)
    (hm : ∀ i, n ≤ i → i < e → l[i]? ≠ some b) : find l b n = some e := by
  rcases h : find l b n with _ | k
  · exact absurd he (find_eq_none h e hn)
  · obtain ⟨h1, h2, h3⟩ := find_eq_some h
    rcases Nat.lt_trichotomy k e with hk | hk | hk
    · exact absurd h2 (hm k h1 hk)
    · rw [hk]
    · exact absurd he (h3 e hn hk)

theorem find_of_not_mem {l : List Byte} {b : Byte} {n : Nat} (h : b ∉ l.drop n) : find l b n = none := by
  rcases hf : find l b n with _ | k
  · rfl
  · obtain ⟨h1, h2, _⟩ := find_eq_some hf
    exact absurd (List.mem_iff_getElem?.mpr
      ⟨k - n, by rw [List.getElem?_drop, Nat.add_sub_cancel' h1]; exact h2⟩) h

/-- A found index lies inside the sequence. -/
theorem find_lt {l : List Byte} {b : Byte} {n e : Nat} (h : find l b n = some e) : e < l.length :=
  (List.getElem?_eq_some_iff.mp (find_eq_some h).2.1).1

end Sys2Proof.Machine
end

