-- ==== Sys2Proof/Laws/Exec.lean ====
section
/-! SUPPORT. What each shared operation and each meaning can do, said once: if it answers a next state, that state is
one of these. Callers cite these and unfold nothing. -/

namespace Sys2Proof.Machine

/-! ### One rx transaction (R190) -/

theorem State.receive_of_lt {s : State} (b : Byte) (h : s.rxLen.toNat < Config.capacity) :
    s.receive b = s.newTransaction.append b := by simp [State.receive, h]

theorem State.receive_of_ge {s : State} (b : Byte) (h : Config.capacity ≤ s.rxLen.toNat) :
    s.receive b = s.newTransaction.raise .rxDrop b.toNat := by simp [State.receive, Nat.not_lt.mpr h]

/-- Whatever room there is, an rx transaction leaves all but the buffer, `ev` and `ev_trace`. -/
theorem State.receive_frame (s : State) (b : Byte) :
    (s.receive b).asm = s.asm ∧ (s.receive b).stopIdx = s.stopIdx ∧ (s.receive b).rxErr = s.rxErr ∧
      (s.receive b).rxf = s.rxf ∧ (s.receive b).txf = s.txf ∧ (s.receive b).rawOpen = s.rawOpen ∧
      (s.receive b).txStream = s.txStream ∧ (s.receive b).dispTrace = s.dispTrace ∧
      (s.receive b).fnResult = s.fnResult ∧ (s.receive b).script = s.script ∧
      (s.receive b).freeCount = s.freeCount := by
  unfold State.receive; split <;> simp

/-- An rx transaction with room appends the byte to the sequence. -/
theorem State.Holds.receive {s : State} {buf : List Byte} (h : s.Holds buf) (b : Byte)
    (hl : buf.length < Config.capacity) : (s.receive b).Holds (buf ++ [b]) := by
  rw [State.receive_of_lt b (h.1 ▸ hl)]
  exact (h.congr rfl rfl : s.newTransaction.Holds buf).append b hl

/-- An rx transaction never takes a byte away, and changes no byte below `rx_len` (R62). -/
theorem State.memRead_receive (s : State) (b : Byte) {i : Nat} (h : i < s.rxLen.toNat) :
    (s.receive b).memRead i = s.memRead i := by
  by_cases hc : s.rxLen.toNat < Config.capacity
  · rw [State.receive_of_lt b hc, State.memRead_append _ _ _ (by simpa using hc)]
    simp [h.ne]
  · rw [State.receive_of_ge b (by omega)]
    exact State.memRead_congr (by simp) (by simp) i

theorem BufferOk.receive {s : State} (h : BufferOk s) (b : Byte) : BufferOk (s.receive b) := by
  by_cases hc : s.rxLen.toNat < Config.capacity
  · rw [State.receive_of_lt b hc]
    exact (h.congr rfl rfl : BufferOk s.newTransaction).append b (by simpa using hc)
  · rw [State.receive_of_ge b (by omega)]
    exact h.congr (by simp) (by simp)

theorem State.rxLen_le_receive {s : State} (b : Byte) : s.rxLen.toNat ≤ (s.receive b).rxLen.toNat := by
  by_cases hc : s.rxLen.toNat < Config.capacity
  · rw [State.receive_of_lt b hc, State.append_rxLen, rxLen_add_one (by simpa using hc)]; simp
  · rw [State.receive_of_ge b (by omega)]; simp

@[simp] theorem State.feed_nil (s : State) : s.feed [] = s := rfl

@[simp] theorem State.feed_cons (s : State) (b : Byte) (t : List Byte) :
    s.feed (b :: t) = (s.receive b).feed t := rfl

theorem State.feed_append (s : State) (a b : List Byte) : s.feed (a ++ b) = (s.feed a).feed b := by
  simp [State.feed, List.foldl_append]

/-- What every rx transaction keeps, a run of them keeps. -/
theorem State.feed_induction {P : State → Prop} (hstep : ∀ s b, P s → P (s.receive b)) (bytes : List Byte) :
    ∀ s : State, P s → P (s.feed bytes) := by
  induction bytes with
  | nil => intro s h; exact h
  | cons b t ih => intro s h; exact ih _ (hstep s b h)

/-- A run of rx transactions leaves all but the buffer, `ev` and `ev_trace`. -/
theorem State.feed_frame (w : List Byte) : ∀ s : State,
    (s.feed w).asm = s.asm ∧ (s.feed w).stopIdx = s.stopIdx ∧ (s.feed w).rxErr = s.rxErr ∧
      (s.feed w).rxf = s.rxf ∧ (s.feed w).txf = s.txf ∧ (s.feed w).rawOpen = s.rawOpen ∧
      (s.feed w).txStream = s.txStream ∧ (s.feed w).dispTrace = s.dispTrace ∧
      (s.feed w).fnResult = s.fnResult ∧ (s.feed w).script = s.script ∧ (s.feed w).freeCount = s.freeCount := by
  induction w with
  | nil => intro s; simp
  | cons b t ih =>
    intro s
    have h1 := ih (s.receive b)
    have h2 := s.receive_frame b
    rw [State.feed_cons]; simp only [h1, h2, and_self]

/-- A run of rx transactions with room for all appends the bytes in order, and raises nothing. -/
theorem State.Holds.feed (w : List Byte) : ∀ {s : State} {buf : List Byte}, s.Holds buf →
    buf.length + w.length ≤ Config.capacity → (s.feed w).Holds (buf ++ w) ∧ (s.feed w).evTrace = s.evTrace := by
  induction w with
  | nil => intro s buf h _; simpa using h
  | cons b t ih =>
    intro s buf h hl
    simp only [List.length_cons] at hl
    have hlt : buf.length < Config.capacity := by omega
    obtain ⟨h1, h2⟩ := ih (h.receive b hlt) (by simp; omega)
    refine ⟨by simpa using h1, ?_⟩
    rw [State.feed_cons, h2, State.receive_of_lt b (h.1 ▸ hlt)]; simp

/-! ### The micro-operations (R141 to R145) -/

/-- Everything A.SCAN can do. -/
theorem execAScan_cases {s t : State} (h : execAScan s = .next t) :
    (s.asm ≠ .scanning ∧ t = s) ∨
    (s.asm = .scanning ∧ ∃ buf k, s.buffer = some buf ∧ k = (find buf Config.start 0).getD buf.length ∧
      k ≤ s.rxLen.toNat ∧
      (((s.newTransaction.dropFront k).rxLen = 0 ∧ t = (s.newTransaction.dropFront k).goto .idle) ∨
        ((s.newTransaction.dropFront k).rxLen ≠ 0 ∧ t = (s.newTransaction.dropFront k).goto .collecting))) := by
  unfold execAScan at h
  split at h
  · rename_i ha
    refine .inr ⟨ha, ?_⟩
    split at h
    · cases h
    · rename_i buf hb
      refine ⟨buf, _, hb, rfl, ?_⟩
      split at h
      · cases h
      · rename_i u hu
        obtain ⟨hk, rfl⟩ := State.compact_cases hu
        refine ⟨by simpa using hk, ?_⟩
        split at h
        · rename_i h0; exact .inl ⟨h0, by cases h; rfl⟩
        · rename_i h0; exact .inr ⟨h0, by cases h; rfl⟩
  · rename_i ha; exact .inl ⟨ha, by cases h; rfl⟩

/-- Everything A.COLLECT can do. -/
theorem execACollect_cases {s t : State} (h : execACollect s = .next t) :
    (s.asm ≠ .collecting ∧ t = s) ∨
    (s.asm = .collecting ∧ ∃ buf, s.buffer = some buf ∧
      ((∃ e, find buf Config.stop 1 = some e ∧ t = (s.newTransaction.setStopIdx e).goto .decoding) ∨
       (find buf Config.stop 1 = none ∧ s.rxLen.toNat = Config.capacity ∧
         t = (s.newTransaction.resetBuf.raise .bufferOverflow Config.capacity).goto .scanning) ∨
       (find buf Config.stop 1 = none ∧ s.rxLen.toNat ≠ Config.capacity ∧ t = s.newTransaction.goto .idle))) := by
  unfold execACollect at h
  split at h
  · rename_i ha
    refine .inr ⟨ha, ?_⟩
    split at h
    · cases h
    · rename_i buf hb
      refine ⟨buf, hb, ?_⟩
      split at h
      · rename_i e he; exact .inl ⟨e, he, by cases h; rfl⟩
      · rename_i he
        split at h
        · rename_i hf; exact .inr (.inl ⟨he, hf, by cases h; rfl⟩)
        · rename_i hf; exact .inr (.inr ⟨he, hf, by cases h; rfl⟩)
  · rename_i ha; exact .inl ⟨ha, by cases h; rfl⟩

/-- Everything A.DECODE can do. -/
theorem execADecode_cases {s t : State} (h : execADecode s = .next t) :
    (s.asm ≠ .decoding ∧ t = s) ∨
    (s.asm = .decoding ∧ ∃ span, s.span = some span ∧
      ((decodeSpan span = none ∧ t = (s.newTransaction.setRxErr 1).goto .discard) ∨
       (∃ f, decodeSpan span = some f ∧ validates f = true ∧ t = (s.newTransaction.setRxf f).goto .dispatch) ∨
       (∃ f, decodeSpan span = some f ∧ validates f = false ∧ t = (s.newTransaction.setRxErr 2).goto .discard))) := by
  unfold execADecode at h
  split at h
  · rename_i ha
    refine .inr ⟨ha, ?_⟩
    split at h
    · cases h
    · rename_i span hs
      refine ⟨span, hs, ?_⟩
      split at h
      · rename_i hd; exact .inl ⟨hd, by cases h; rfl⟩
      · rename_i f hd
        split at h
        · rename_i hv; exact .inr (.inl ⟨f, hd, hv, by cases h; rfl⟩)
        · rename_i hv; exact .inr (.inr ⟨f, hd, by simpa using hv, by cases h; rfl⟩)
  · rename_i ha; exact .inl ⟨ha, by cases h; rfl⟩

/-- Everything A.DISPATCH can do. -/
theorem execADispatch_cases {r : Bool} {s t : State} (h : execADispatch r s = .next t) :
    ((s.asm ≠ .dispatch ∨ r = false) ∧ t = s) ∨
    (s.asm = .dispatch ∧ r = true ∧ s.inHand ≤ s.rxLen.toNat ∧
      t = ((s.newTransaction.emitDispatch s.dispatched).dropFront s.inHand).forgetDispatched.goto .scanning) := by
  unfold execADispatch at h
  split at h
  · rename_i ha
    split at h
    · cases h
    · rename_i u hu
      obtain ⟨hk, rfl⟩ := State.compact_cases hu
      exact .inr ⟨ha.1, ha.2, by simpa using hk, by cases h; rfl⟩
  · rename_i ha
    refine .inl ⟨?_, by cases h; rfl⟩
    by_cases hd : s.asm = .dispatch
    · exact .inr (by simpa [hd] using ha)
    · exact .inl hd

/-- Everything A.DISCARD can do. -/
theorem execADiscard_cases {s t : State} (h : execADiscard s = .next t) :
    (s.asm ≠ .discard ∧ t = s) ∨
    (s.asm = .discard ∧ s.inHand ≤ s.rxLen.toNat ∧
      t = ((s.newTransaction.raise s.latchedError s.inHand).dropFront s.inHand).forgetDiscarded.goto .scanning) := by
  unfold execADiscard at h
  split at h
  · rename_i ha
    split at h
    · cases h
    · rename_i u hu
      obtain ⟨hk, rfl⟩ := State.compact_cases hu
      exact .inr ⟨ha, by simpa using hk, by cases h; rfl⟩
  · rename_i ha; exact .inl ⟨ha, by cases h; rfl⟩

/-! ### The ports -/

/-- ENCODE fails exactly above 32 arguments (R113). -/
theorem encodeFrame_eq_none {f : Frame} : encodeFrame f = none ↔ Config.maxArgs < f.argCount.toNat := by
  unfold encodeFrame; split <;> simp_all

/-- Everything SEND_FRAME can do. -/
theorem execSendFrame_cases {c : Byte} {n : ArgCount} {a : ArgPort} {s t : State}
    (h : execSendFrame c n a s = .next t) :
    (s.rawOpen = true ∧ t = s.setScript (s.script ++ [.txf c n a])) ∨
    (s.rawOpen = false ∧ Config.maxArgs < n.toNat ∧ t = s.newTransaction.raise .encodeError n.toNat) ∨
    (s.rawOpen = false ∧ n.toNat ≤ Config.maxArgs ∧ ∃ w, encodeFrame (txFrame c n a) = some w ∧
      t = (s.newTransaction.setTxf (txFrame c n a)).emitTx w) := by
  unfold execSendFrame at h
  split at h
  · rename_i hr; exact .inl ⟨hr, by cases h; rfl⟩
  · rename_i hr
    have hr' : s.rawOpen = false := by simpa using hr
    split at h
    · rename_i he
      exact .inr (.inl ⟨hr', encodeFrame_eq_none.mp he, by cases h; rfl⟩)
    · rename_i w he
      refine .inr (.inr ⟨hr', ?_, w, he, by cases h; rfl⟩)
      by_contra hc
      have : encodeFrame (txFrame c n a) = none := encodeFrame_eq_none.mpr (by simpa [txFrame] using hc)
      simp [this] at he

/-- Everything SEND_BUFFER can do. -/
theorem execSendBuffer_cases {m : List Byte} {last : Bool} {s t : State} (h : execSendBuffer m last s = .next t) :
    (m = [] ∧ t = s) ∨ (m ≠ [] ∧ t = (s.newTransaction.emitTx m).setRawOpen (!last)) := by
  unfold execSendBuffer at h
  split at h
  · rename_i hm; exact .inl ⟨hm, by cases h; rfl⟩
  · rename_i hm; exact .inr ⟨hm, by cases h; rfl⟩

/-- Everything TICK can do. -/
theorem execTick_cases {s t : State} (h : execTick s = .next t) :
    (s.asm = .idle ∧ t = s.newTransaction.goto .scanning) ∨ (s.asm ≠ .idle ∧ t = s) := by
  unfold execTick at h
  split at h
  · rename_i ha; exact .inl ⟨ha, by cases h; rfl⟩
  · rename_i ha; exact .inr ⟨ha, by cases h; rfl⟩

/-! ### A clocked sample -/

@[simp] theorem pinRequests_setScript (p : Pins) (s : State) (rs : List Request) :
    pinRequests p (s.setScript rs) = pinRequests p s := rfl

@[simp] theorem pinRequests_newTransaction (p : Pins) (s : State) :
    pinRequests p s.newTransaction = pinRequests p s := rfl

theorem runSample_nil (s : State) : runSample [] s = .next s := rfl

/-- The first transaction of a sample, where its request selects an operation. -/
theorem runSample_cons_ok {r : Request} {rest : List Request} {i : Instr} {left : Option Request} {s t : State}
    (hd : decode s.asm r = .ok (i, left)) (he : exec i s.newTransaction = .next t) :
    runSample (r :: rest) s = runSample rest (t.pulsesAfter s) := by
  simp only [runSample, hd, execInSample, he]

/-- A sample's transactions in two parts. -/
theorem runSample_append {a b : List Request} : ∀ {s t : State}, runSample a s = .next t →
    runSample (a ++ b) s = runSample b t := by
  induction a with
  | nil => intro s t h; cases h; rfl
  | cons r a ih =>
    intro s t h
    simp only [List.cons_append, runSample] at h ⊢
    split at h
    · exact ih h
    · split at h
      · exact ih h
      · cases h
      · cases h

theorem execInSample_cases {i : Instr} {s t : State} (h : execInSample i s = .next t) :
    ∃ u, exec i s.newTransaction = .next u ∧ t = u.pulsesAfter s := by
  unfold execInSample at h
  split at h
  · rename_i u hu; exact ⟨u, hu, by cases h; rfl⟩
  · cases h
  · cases h

/-- What every operation keeps, and the pulses and the bytes at the sink do not touch, a sample keeps. -/
theorem runSample_induction {P : State → Prop}
    (hpulse : ∀ s ev tx, P s → P { s with ev := ev, txNow := tx })
    (hexec : ∀ i s t, P s → exec i s = .next t → P t) :
    ∀ (rs : List Request) {s t : State}, P s → runSample rs s = .next t → P t := by
  intro rs
  induction rs with
  | nil => intro s t hs h; cases h; exact hs
  | cons r rest ih =>
    intro s t hs h
    simp only [runSample] at h
    split at h
    · exact ih hs h
    · split at h
      · rename_i u hu
        obtain ⟨v, hv, rfl⟩ := execInSample_cases hu
        exact ih (hpulse _ _ _ (hexec _ _ v (hpulse _ _ _ hs) hv)) h
      · cases h
      · cases h

/-- Where every operation completes and keeps what makes it complete, a sample completes. -/
theorem runSample_next {P : State → Prop}
    (hpulse : ∀ s ev tx, P s → P { s with ev := ev, txNow := tx })
    (hexec : ∀ i s t, P s → exec i s = .next t → P t) (hnext : ∀ i s, P s → ∃ t, exec i s = .next t) :
    ∀ (rs : List Request) {s : State}, P s → ∃ t, runSample rs s = .next t := by
  intro rs
  induction rs with
  | nil => intro s _; exact ⟨s, rfl⟩
  | cons r rest ih =>
    intro s hs
    simp only [runSample]
    split
    · exact ih hs
    · rename_i i _ _
      obtain ⟨u, hu⟩ := hnext i s.newTransaction (hpulse _ _ _ hs)
      simp only [execInSample, hu]
      exact ih (hpulse _ _ _ (hexec _ _ u (hpulse _ _ _ hs) hu))

/-! ### A step -/

/-- Everything a step can do: it changes the script and nothing else, it runs a clocked sample, or it runs one operation
on the state with the script moved on. -/
theorem step_cases {s t : State} (h : step s = .next t) :
    (∃ rs, t = s.setScript rs) ∨ (∃ p rs, (s.setScript rs).sample p = .next t) ∨
      ∃ i rs, exec i (s.setScript rs) = .next t := by
  unfold step at h
  split at h
  · exact .inl ⟨s.script, by cases h; rfl⟩
  · exact .inr (.inl ⟨_, _, h⟩)
  · split at h
    · exact .inr (.inr ⟨_, _, h⟩)
    · exact .inl ⟨_, by cases h; rfl⟩

/-- What every operation keeps, and the script, the pulses and the bytes at the sink do not touch, every step keeps. -/
theorem step_induction {P : State → Prop} (hscript : ∀ s rs, P s → P (s.setScript rs))
    (hpulse : ∀ s ev tx, P s → P { s with ev := ev, txNow := tx })
    (hexec : ∀ i s t, P s → exec i s = .next t → P t) {s t : State} (hs : P s) (h : step s = .next t) : P t := by
  rcases step_cases h with ⟨rs, rfl⟩ | ⟨p, rs, he⟩ | ⟨i, rs, he⟩
  · exact hscript s rs hs
  · exact runSample_induction hpulse hexec _ (hpulse _ _ _ (hscript s rs hs)) he
  · exact hexec i _ t (hscript s rs hs) he

@[simp] theorem core_step (s : State) : Host.Core.step Sys2Proof.core s = step s := rfl

/-- A run of one step more. -/
theorem run_succ_of_next {k : Nat} {s t : State} (h : step s = .next t) :
    Host.Core.run Sys2Proof.core (k + 1) s = Host.Core.run Sys2Proof.core k t := by
  have h' : Host.Core.step Sys2Proof.core s = .next t := h
  simp only [Host.Core.run, h']

/-- A run of j + k steps is a run of j steps and then one of k. -/
theorem run_add {j k : Nat} : ∀ {s t : State}, Host.Core.run Sys2Proof.core j s = .next t →
    Host.Core.run Sys2Proof.core (j + k) s = Host.Core.run Sys2Proof.core k t := by
  induction j with
  | zero => intro s t h; cases h; rw [Nat.zero_add]
  | succ j ih =>
    intro s t h
    simp only [Host.Core.run] at h
    split at h
    · rename_i u hu
      rw [Nat.succ_add, run_succ_of_next hu]; exact ih h
    · cases h
    · cases h

/-- What every step keeps, every run keeps: the induction over a run, once. -/
theorem run_induction {P : State → Prop} (hstep : ∀ s t, P s → step s = .next t → P t) :
    ∀ (k : Nat) {s t : State}, P s → Host.Core.run Sys2Proof.core k s = .next t → P t := by
  intro k
  induction k with
  | zero => intro s t hs h; cases h; exact hs
  | succ k ih =>
    intro s t hs h
    simp only [Host.Core.run] at h
    split at h
    · rename_i u hu; exact ih (hstep s u hs hu) h
    · cases h
    · cases h

end Sys2Proof.Machine
end

