-- ==== Sys2Proof/Laws/Invariant.lean ====
section
/-! SUPPORT. What `FramerInv` depends on, and that the writes and the rx transaction keep it. -/

namespace Sys2Proof.Machine

/-- The invariant speaks of seven fields only. -/
theorem FramerInv.congr {s t : State} (h : FramerInv s) (hm : t.mem = s.mem) (hl : t.rxLen = s.rxLen)
    (ha : t.asm = s.asm) (hs : t.stopIdx = s.stopIdx) (he : t.rxErr = s.rxErr) (hr : t.rxf = s.rxf)
    (hd : t.dispTrace = s.dispTrace) : FramerInv t := by
  have hread := fun i => State.memRead_congr hm hl i
  have hspan : t.span = s.span := State.span_congr hm hl hs
  refine ⟨h.buffer.congr hm hl, ?_, ?_, ?_, ?_, ?_⟩
  · rw [ha, hread]; exact h.collecting
  · rw [ha]; intro x
    have hx := h.stopIdx x
    simp only [StopIdxOk, hs, hl, hread] at hx ⊢
    exact hx
  · rw [ha, hr, hspan]; exact h.dispatch
  · rw [ha, hspan, he]; exact h.discard
  · rw [hd]; exact h.handed

/-- In Scanning and in Idle the invariant asks for the buffer and the frames handed over, and nothing else. -/
theorem FramerInv.of_scanning_or_idle {t : State} (hb : BufferOk t) (ha : t.asm = .scanning ∨ t.asm = .idle)
    (hh : ∀ f ∈ t.dispTrace, ValidFrame f) : FramerInv t := by
  refine ⟨hb, ?_, ?_, ?_, ?_, hh⟩ <;> rcases ha with ha | ha <;> simp [ha]

/-- An rx transaction appends, so what stands below `rx_len` stays as it was (R28, R62). -/
theorem FramerInv.receive {s : State} (h : FramerInv s) (b : Byte) : FramerInv (s.receive b) := by
  obtain ⟨f1, f2, f3, f4, f5, f6, f7, f8, f9, f10, f11⟩ := s.receive_frame b
  have hr : ∀ i, i < s.rxLen.toNat → (s.receive b).memRead i = s.memRead i := fun i hi =>
    State.memRead_receive s b hi
  have hle := State.rxLen_le_receive (s := s) b
  have hspan : StopIdxOk s → (s.receive b).span = s.span := by
    intro ok
    unfold State.span
    rw [f2]
    exact State.readRange_agree _ _ (fun j h1 h2 => hr j (by have := ok.2.1; omega))
  refine ⟨h.buffer.receive b, ?_, ?_, ?_, ?_, ?_⟩
  · rw [f1]; intro ha
    have hc := h.collecting ha
    have hpos : 0 < s.rxLen.toNat := by by_contra hn; simp [State.memRead_def, hn] at hc
    rw [hr 0 hpos]; exact hc
  · rw [f1]; intro x
    obtain ⟨a1, a2, a3, a4, a5⟩ := h.stopIdx x
    refine ⟨by rw [f2]; exact a1, by rw [f2]; omega, by rw [hr 0 (by omega)]; exact a3,
      by rw [f2, hr _ a2]; exact a4, ?_⟩
    rw [f2]; intro i i1 i2; rw [hr i (by omega)]; exact a5 i i1 i2
  · rw [f1, f4]; intro x; rw [hspan (h.stopIdx (by tauto))]; exact h.dispatch x
  · rw [f1, f3]; intro x; rw [hspan (h.stopIdx (by tauto))]; exact h.discard x
  · rw [f8]; exact h.handed

/-- What the invariant gives a reader of the buffer: the sequence it holds. -/
theorem FramerInv.holds {s : State} (h : FramerInv s) : ∃ buf, s.Holds buf ∧ buf.length ≤ Config.capacity :=
  h.buffer.holds

end Sys2Proof.Machine
end

