-- ==== Sys2Proof/Laws/PerInstr.lean ====
section
/-! SUPPORT. A statement about each operation as syntax: an operation is the driver agent's turn exactly where
`asm_state` selects it (R27: "`asm_state` says which micro-operation the driver agent executes next, and is the only
thing that does"; R87: the other operations are selected by a port or invoked by a rule). -/

namespace Sys2Proof.Laws.Selects

/-- The operation's request is the driver's turn exactly where a state other than Idle selects it. -/
def Statement (i : Instr) : Prop := (∃ ready, encode i = .driver ready) ↔ selectingState i ≠ .idle

theorem digit (v : Nibble) : Statement (.digit v) :=
  ⟨fun ⟨_, h⟩ => Request.noConfusion h, fun h => absurd rfl h⟩
theorem start : Statement .start :=
  ⟨fun ⟨_, h⟩ => Request.noConfusion h, fun h => absurd rfl h⟩
theorem stop : Statement .stop :=
  ⟨fun ⟨_, h⟩ => Request.noConfusion h, fun h => absurd rfl h⟩
theorem upper (v : BitVec 3) : Statement (.upper v) :=
  ⟨fun ⟨_, h⟩ => Request.noConfusion h, fun h => absurd rfl h⟩
theorem lower (v : BitVec 3) : Statement (.lower v) :=
  ⟨fun ⟨_, h⟩ => Request.noConfusion h, fun h => absurd rfl h⟩
theorem other (b : Byte) : Statement (.other b) :=
  ⟨fun ⟨_, h⟩ => Request.noConfusion h, fun h => absurd rfl h⟩
theorem frame (c n : HexPair) (a : List HexPair) (k : HexPair) : Statement (.frame c n a k) :=
  ⟨fun ⟨_, h⟩ => Request.noConfusion h, fun h => absurd rfl h⟩
theorem hexenc (b : Byte) : Statement (.hexenc b) :=
  ⟨fun ⟨_, h⟩ => Request.noConfusion h, fun h => absurd rfl h⟩
theorem hexdec (h l : Byte) : Statement (.hexdec h l) :=
  ⟨fun ⟨_, h⟩ => Request.noConfusion h, fun h => absurd rfl h⟩
theorem checksum (c : Byte) (n : ArgCount) (a : List Byte) : Statement (.checksum c n a) :=
  ⟨fun ⟨_, h⟩ => Request.noConfusion h, fun h => absurd rfl h⟩
theorem encode (f : Frame) : Statement (.encode f) :=
  ⟨fun ⟨_, h⟩ => Request.noConfusion h, fun h => absurd rfl h⟩
theorem decode (s : List Byte) : Statement (.decode s) :=
  ⟨fun ⟨_, h⟩ => Request.noConfusion h, fun h => absurd rfl h⟩
theorem validate (f : Frame) : Statement (.validate f) :=
  ⟨fun ⟨_, h⟩ => Request.noConfusion h, fun h => absurd rfl h⟩
theorem aScan : Statement .aScan := ⟨fun _ => AsmState.noConfusion, fun _ => ⟨false, rfl⟩⟩
theorem aCollect : Statement .aCollect := ⟨fun _ => AsmState.noConfusion, fun _ => ⟨false, rfl⟩⟩
theorem aDecode : Statement .aDecode := ⟨fun _ => AsmState.noConfusion, fun _ => ⟨false, rfl⟩⟩
theorem aDispatch (r : Bool) : Statement (.aDispatch r) := ⟨fun _ => AsmState.noConfusion, fun _ => ⟨r, rfl⟩⟩
theorem aDiscard : Statement .aDiscard := ⟨fun _ => AsmState.noConfusion, fun _ => ⟨false, rfl⟩⟩
theorem sendFrame (c : Byte) (n : ArgCount) (a : ArgPort) : Statement (.sendFrame c n a) :=
  ⟨fun ⟨_, h⟩ => Request.noConfusion h, fun h => absurd rfl h⟩
theorem sendBuffer (m : List Byte) (last : Bool) : Statement (.sendBuffer m last) :=
  ⟨fun ⟨_, h⟩ => Request.noConfusion h, fun h => absurd rfl h⟩
theorem ingest (b : Byte) : Statement (.ingest b) :=
  ⟨fun ⟨_, h⟩ => Request.noConfusion h, fun h => absurd rfl h⟩
theorem tick : Statement .tick :=
  ⟨fun ⟨_, h⟩ => Request.noConfusion h, fun h => absurd rfl h⟩
theorem reset : Statement .reset :=
  ⟨fun ⟨_, h⟩ => Request.noConfusion h, fun h => absurd rfl h⟩

end Sys2Proof.Laws.Selects
end

