-- ==== Sys2Proof/Tests/Slice0.lean ====
section
/-! SUPPORT. The model's own tests: ill-formed terms that WellFormed refuses; a word of each row, written out from the
spec's encodings, and the operation it decodes to; one step of each operation, the expected values from
95_test_vectors.md or by hand from the rule; and for each obligation with hypotheses a state and operands that meet
them all. -/

namespace Sys2Proof.Machine

/-! ### Small states -/

/-- The reset machine with these bytes in its buffer. -/
def fed (bytes : List Byte) : State := State.reset.feed bytes

/-- The reset machine with these bytes in its buffer, in the given state of the assembler. -/
def at' (a : AsmState) (bytes : List Byte) : State := (fed bytes).goto a

/-- What is left in the buffer, `asm_state` and `ev_trace`. -/
def look (o : Host.Outcome State Fault Refusal) : Option (Option (List Byte) × AsmState × List Event) :=
  (nextOf o).map fun t => (t.buffer, t.asm, t.evTrace)

/-- What a byte row or a pure function answered. -/
def answerOf (o : Host.Outcome State Fault Refusal) : Option FnResult :=
  match nextOf o with
  | some t => t.fnResult
  | none => none

theorem holds_reset : State.reset.Holds [] := ⟨rfl, fun i => by simp [State.memRead_def, State.reset]⟩

theorem holds_fed (bytes : List Byte) (h : bytes.length ≤ Config.capacity) : (fed bytes).Holds bytes := by
  exact (State.Holds.feed bytes holds_reset (by simpa using h)).1

theorem holds_at (a : AsmState) (bytes : List Byte) (h : bytes.length ≤ Config.capacity) :
    (at' a bytes).Holds bytes := (holds_fed bytes h).congr rfl rfl

/-- `<000000>` and the Frame it is. -/
def wire0 : List Byte := [0x3C, 0x30, 0x30, 0x30, 0x30, 0x30, 0x30, 0x3E]
def frame0 : Frame := ⟨0, 0, [], 0⟩

/-- `<01020A0B02>` and the Frame it is (95_test_vectors.md, S1 corrected). -/
def wire1 : List Byte := [0x3C, 0x30, 0x31, 0x30, 0x32, 0x30, 0x41, 0x30, 0x42, 0x30, 0x32, 0x3E]
def frame1 : Frame := ⟨0x01, 2, [0x0A, 0x0B], 0x02⟩

/-- `<01020A0B06>`, which decodes but does not validate (S1 as printed). -/
def wire1Bad : List Byte := [0x3C, 0x30, 0x31, 0x30, 0x32, 0x30, 0x41, 0x30, 0x42, 0x30, 0x36, 0x3E]

/-- The hex pair of two decimal digits or upper-case letters. -/
def pair (h l : Nibble) : HexPair := ⟨⟨h, false⟩, ⟨l, false⟩⟩

/-! ### WellFormed: each check refuses an ill-formed term -/

theorem test_wf_digit : Instr.wellFormed (.digit 12) = false := by decide
theorem test_wf_upper_low : Instr.wellFormed (.upper 0) = false := by decide
theorem test_wf_upper_high : Instr.wellFormed (.upper 7) = false := by decide
theorem test_wf_lower_low : Instr.wellFormed (.lower 0) = false := by decide
theorem test_wf_lower_high : Instr.wellFormed (.lower 7) = false := by decide
theorem test_wf_other : Instr.wellFormed (.other 0x3C) = false := by decide
theorem test_wf_other_digit : Instr.wellFormed (.other 0x39) = false := by decide
theorem test_wf_frame_small_decimal : Instr.wellFormed (.frame ⟨⟨3, true⟩, ⟨0, false⟩⟩ (pair 0 0) [] (pair 0 0)) = false := by
  decide
theorem test_wf_frame_length : Instr.wellFormed (.frame (pair 0 0) (pair 0 1) [] (pair 0 0)) = false := by decide
theorem test_wf_frame_max_args :
    Instr.wellFormed (.frame (pair 0 0) (pair 2 1) (List.replicate 33 (pair 0 0)) (pair 0 0)) = false := by decide
theorem test_wf_checksum_count : Instr.wellFormed (.checksum 0 33 (List.replicate 33 0)) = false := by decide
theorem test_wf_checksum_short : Instr.wellFormed (.checksum 0 2 [0x0A]) = false := by decide
theorem test_wf_encode : Instr.wellFormed (.encode ⟨0, 1, [], 0⟩) = false := by decide
set_option maxRecDepth 20000 in
theorem test_wf_decode : Instr.wellFormed (.decode (List.replicate 499 0x30)) = false := by decide
theorem test_wf_validate : Instr.wellFormed (.validate ⟨0, 2, [1], 0⟩) = false := by decide
theorem test_wf_sendBuffer : Instr.wellFormed (.sendBuffer [] true) = false := by decide

/-! ### Decode: a word of each row, from R82, R80, R87 and R27 -/

theorem test_decode_digit : decodeTableWord 8 0b00111001 = some (.digit 9) := by decide
theorem test_decode_start : decodeTableWord 8 0b00111100 = some .start := by decide
theorem test_decode_stop : decodeTableWord 8 0b00111110 = some .stop := by decide
theorem test_decode_upper : decodeTableWord 8 0b01000001 = some (.upper 1) := by decide
theorem test_decode_lower : decodeTableWord 8 0b01100110 = some (.lower 6) := by decide
theorem test_decode_other : decodeTableWord 8 0b10000000 = some (.other 0x80) := by decide
/-- The bytes of the UPPER and LOWER patterns whose field is 0 or 7 are OTHER (R82, R93). -/
theorem test_decode_edges : decodeTableWord 8 0b01000000 = some (.other 0x40) ∧
    decodeTableWord 8 0b01000111 = some (.other 0x47) ∧ decodeTableWord 8 0b01100000 = some (.other 0x60) ∧
    decodeTableWord 8 0b01100111 = some (.other 0x67) ∧ decodeTableWord 8 0b00111010 = some (.other 0x3A) ∧
    decodeTableWord 8 0b00101111 = some (.other 0x2F) := by decide
/-- `<7F0180FE>` (V-codec-5), the first byte lowest. -/
theorem test_decode_frame : decodeTableWord 80 0x3E45463038313046373C =
    some (.frame (pair 7 15) (pair 0 1) [pair 8 0] (pair 15 14)) := by decide
theorem test_decode_hexenc : decode .idle (.internal (.hexenc 0x9A)) = .ok (.hexenc 0x9A, none) := by decide
theorem test_decode_hexdec : decode .idle (.internal (.hexdec 0x39 0x41)) = .ok (.hexdec 0x39 0x41, none) := by decide
theorem test_decode_checksum : decode .idle (.internal (.checksum 1 2 [0x0A, 0x0B])) =
    .ok (.checksum 1 2 [0x0A, 0x0B], none) := by decide
theorem test_decode_encode : decode .idle (.internal (.encode frame1)) = .ok (.encode frame1, none) := by decide
theorem test_decode_decode : decode .idle (.internal (.decode [0x30])) = .ok (.decode [0x30], none) := by decide
theorem test_decode_validate : decode .idle (.internal (.validate frame1)) = .ok (.validate frame1, none) := by decide
theorem test_decode_scan : decode .scanning (.driver false) = .ok (.aScan, none) := by decide
theorem test_decode_collect : decode .collecting (.driver false) = .ok (.aCollect, none) := by decide
theorem test_decode_decoding : decode .decoding (.driver false) = .ok (.aDecode, none) := by decide
theorem test_decode_dispatch : decode .dispatch (.driver true) = .ok (.aDispatch true, none) := by decide
theorem test_decode_discard : decode .discard (.driver false) = .ok (.aDiscard, none) := by decide
theorem test_decode_driver_idle : decode .idle (.driver true) = .error .driverIdle := by decide
theorem test_decode_send_frame : decode .idle (.txf 0x01 2 0x0B0A) = .ok (.sendFrame 0x01 2 0x0B0A, none) := by decide
theorem test_decode_send_buffer : decode .idle (.txr [0x68, 0x69] true) = .ok (.sendBuffer [0x68, 0x69] true, none) := by
  decide
theorem test_decode_ingest : decode .idle (.rx 0x3C) = .ok (.ingest 0x3C, none) := by decide
theorem test_decode_tick : decode .idle .tick = .ok (.tick, none) := by decide
theorem test_decode_reset : decode .dispatch .rst = .ok (.reset, none) := by decide
/-- R27: the encoding of `asm_state`. -/
theorem test_asm_codes : [AsmState.idle, .scanning, .collecting, .decoding, .dispatch, .discard].map AsmState.code =
    [0, 1, 2, 3, 4, 5] ∧ AsmState.ofCode 4 = some .dispatch ∧ AsmState.ofCode 6 = none ∧ AsmState.ofCode 7 = none := by
  decide

/-! ### One step of each operation -/

/-- R82: `9` is read as 9, and stored. -/
theorem test_digit : answerOf (exec (.digit 9) State.reset) = some (.byteClass .digit (some 9)) ∧
    look (exec (.digit 9) (fed [0x3C])) = some (some [0x3C, 0x39], .idle, []) := by decide
theorem test_start : look (exec .start State.reset) = some (some [0x3C], .idle, []) := by decide
theorem test_stop : answerOf (exec .stop State.reset) = some (.byteClass .stop none) := by decide
/-- R82: `F` is 15. -/
theorem test_upper : answerOf (exec (.upper 6) State.reset) = some (.byteClass .upper (some 15)) ∧
    look (exec (.upper 6) State.reset) = some (some [0x46], .idle, []) := by decide
/-- R82: `a` is 10. -/
theorem test_lower : answerOf (exec (.lower 1) State.reset) = some (.byteClass .lower (some 10)) ∧
    look (exec (.lower 1) State.reset) = some (some [0x61], .idle, []) := by decide
theorem test_other : answerOf (exec (.other 0xFF) State.reset) = some (.byteClass .other none) := by decide
/-- `<7F0180FE>` (V-codec-5). -/
theorem test_frame : look (exec (.frame (pair 7 15) (pair 0 1) [pair 8 0] (pair 15 14)) State.reset) =
      some (some [0x3C, 0x37, 0x46, 0x30, 0x31, 0x38, 0x30, 0x46, 0x45, 0x3E], .idle, []) ∧
    answerOf (exec (.frame (pair 7 15) (pair 0 1) [pair 8 0] (pair 15 14)) State.reset) =
      some (.frame ⟨0x7F, 1, [0x80], 0xFE⟩) := by decide
/-- V-codec-1. -/
theorem test_hexenc : answerOf (exec (.hexenc 0x9A) State.reset) = some (.pair 0x39 0x41) := by decide
/-- V-codec-2. -/
theorem test_hexdec_mixed : answerOf (exec (.hexdec 0x61 0x46) State.reset) = some (.byte 0xAF) := by decide
/-- V-codec-3. -/
theorem test_hexdec_bad : answerOf (exec (.hexdec 0x30 0x47) State.reset) = some (.error .conversionError) := by decide
/-- V-codec-4: a byte beyond arg_count does not enter. -/
theorem test_checksum : answerOf (exec (.checksum 0x01 2 [0x0A, 0x0B, 0x77]) State.reset) = some (.byte 0x02) := by
  decide
theorem test_checksum_count : answerOf (exec (.checksum 0xAA 1 [0xAA]) State.reset) = some (.byte 0x01) := by decide
/-- V-codec-5. -/
theorem test_encode : answerOf (exec (.encode frame1) State.reset) = some (.bytes wire1) := by decide
theorem test_encode_33 : answerOf (exec (.encode ⟨0, 33, List.replicate 33 0, 0⟩) State.reset) =
    some (.error .encodeError) := by decide
/-- V-codec-6: lower case is accepted. -/
theorem test_decode_lower_case : answerOf (exec (.decode
    [0x30, 0x31, 0x30, 0x32, 0x30, 0x61, 0x30, 0x62, 0x30, 0x32]) State.reset) = some (.frame frame1) := by decide
/-- V-codec-7: `004040`, arg_count 0x40 is not narrowed first. -/
theorem test_decode_narrowing : answerOf (exec (.decode [0x30, 0x30, 0x34, 0x30, 0x34, 0x30]) State.reset) =
    some (.error .conversionError) := by decide
/-- V-codec-8. -/
theorem test_validate : answerOf (exec (.validate frame1) State.reset) = some .ok := by decide
theorem test_validate_bad : answerOf (exec (.validate ⟨0xAA, 1, [0xAA], 0x00⟩) State.reset) =
    some (.error .checksumMismatch) := by decide
/-- V-asm-1: `xy>zz<7F01`. -/
theorem test_scan : look (exec .aScan (at' .scanning [0x78, 0x79, 0x3E, 0x7A, 0x7A, 0x3C, 0x37, 0x46, 0x30, 0x31])) =
    some (some [0x3C, 0x37, 0x46, 0x30, 0x31], .collecting, []) := by decide
theorem test_scan_none : look (exec .aScan (at' .scanning [0x78, 0x79, 0x7A])) = some (some [], .idle, []) := by decide
/-- V-asm-2: the first STOP of two. -/
theorem test_collect : (nextOf (exec .aCollect (at' .collecting (wire1 ++ wire0)))).map (fun t => (t.asm, t.stopIdx)) =
    some (.decoding, 11) := by decide
theorem test_collect_partial : look (exec .aCollect (at' .collecting [0x3C, 0x30, 0x31])) =
    some (some [0x3C, 0x30, 0x31], .idle, []) := by decide
/-- V-asm-3. -/
theorem test_decode_step : (nextOf (exec .aDecode ((at' .decoding wire1).setStopIdx 11))).map (fun t => (t.asm, t.rxf)) =
    some (.dispatch, frame1) := by decide
theorem test_decode_step_bad :
    (nextOf (exec .aDecode ((at' .decoding wire1Bad).setStopIdx 11))).map (fun t => (t.asm, t.rxErr)) =
    some (.discard, 2) := by decide
/-- V-asm-4. -/
theorem test_dispatch :
    (nextOf (exec (.aDispatch true) (((at' .dispatch (wire1 ++ [0x3C, 0x30, 0x30])).setStopIdx 11).setRxf frame1))).map
      (fun t => (t.buffer, t.asm, t.dispTrace)) = some (some [0x3C, 0x30, 0x30], .scanning, [frame1]) := by decide
theorem test_discard : look (exec .aDiscard (((at' .discard
      ([0x3C, 0x47, 0x5A, 0x30, 0x30, 0x30, 0x30, 0x3E] ++ wire0)).setStopIdx 7).setRxErr 1)) =
    some (some wire0, .scanning, [⟨.conversionError, 8⟩]) := by decide
/-- V-tx-1: argument byte 2 lies beyond arg_count. -/
theorem test_send_frame : (nextOf (exec (.sendFrame 0x01 2 0x770B0A) State.reset)).map (·.txStream) = some wire1 := by
  decide
theorem test_send_frame_33 : (nextOf (exec (.sendFrame 0x02 33 0) State.reset)).map
    (fun t => (t.txStream, t.evTrace, t.ev)) = some ([], [⟨.encodeError, 33⟩], 0b10000) := by decide
/-- V-tx-2. -/
theorem test_send_buffer : (nextOf (exec (.sendBuffer [0x68, 0x69, 0x0A] true) State.reset)).map
    (fun t => (t.txStream, t.rawOpen)) = some ([0x68, 0x69, 0x0A], false) := by decide
/-- V-drv-1. -/
theorem test_ingest : look (exec (.ingest 0x30) (fed [0x3C, 0x30, 0x31])) =
    some (some [0x3C, 0x30, 0x31, 0x30], .idle, []) := by decide
theorem test_ingest_full : (nextOf (exec (.ingest 0x3E) { State.reset with rxLen := 500 })).map
    (fun t => (t.rxLen, t.evTrace, t.ev)) = some (500, [⟨.rxDrop, 0x3E⟩], 0b01000) := by decide
theorem test_tick : look (exec .tick (fed [0x3C])) = some (some [0x3C], .scanning, []) := by decide
/-- V-drv-3. -/
theorem test_tick_busy : look (exec .tick (at' .dispatch wire0)) = some (some wire0, .dispatch, []) := by decide
/-- V-rst-2. -/
theorem test_reset : (nextOf (exec .reset (((at' .dispatch wire0).setStopIdx 7).setRxf frame0))).map
    (fun t => (t.buffer, t.asm, t.dispTrace, t.ev, t.rawOpen)) = some (some [], .idle, [], 0, false) := by decide
/-- R35: two bytes on `disp_args`, byte 0 lowest. -/
theorem test_pack : packArgs [0x0A, 0x0B] = 0x0B0A := by decide
/-- A word placed where step reads its next operation runs first. -/
theorem test_fetch : look (step (State.reset.withFetchWord 8 0x41)) = some (some [0x41], .idle, []) := by decide

/-- R255, R147: a tick over `<0` leaves a partial frame, and the run is over. -/
theorem test_run_over : (nextOf ((fed [0x3C, 0x30]).runScript [.tick, .driver true, .driver true])).map
      (fun t => decide t.RunOver) = some true ∧
    (nextOf ((fed [0x3C, 0x30]).runScript [.tick, .driver true, .driver true])).map
      (fun t => (t.finalState.1, t.finalState.2.1)) = some (some [0x3C, 0x30], 2) := by decide

/-! ### Witnesses: states and operands that meet the hypotheses of the obligations -/

/-- Dispatch with `<000000>` in hand. -/
def dispatching : State := ((at' .dispatch wire0).setStopIdx 7).setRxf frame0

theorem holds_dispatching : dispatching.Holds wire0 := (holds_at .dispatch wire0 (by decide)).congr rfl rfl

theorem validFrame0 : ValidFrame frame0 := by unfold ValidFrame; decide
theorem validFrame1 : ValidFrame frame1 := by unfold ValidFrame; decide

theorem inv_reset : FramerInv State.reset :=
  .of_scanning_or_idle ⟨rfl, by decide⟩ (.inr rfl) (by simp [State.reset])

theorem inv_fed : FramerInv (fed wire0) :=
  State.feed_induction (fun _ b h => h.receive b) _ _ inv_reset

theorem inv_dispatching : FramerInv dispatching where
  buffer := by unfold BufferOk; decide
  collecting := by decide
  stopIdx := fun _ => ⟨by decide, by decide, by decide, by decide, by
    intro i h1 h2
    have h3 : i < 7 := h2
    interval_cases i <;> decide⟩
  dispatch := fun _ => ⟨validFrame0, (wire0.drop 1).dropLast, by decide, by decide⟩
  discard := by intro h; exact absurd h (by decide)
  handed := by intro f h; exact absurd h (by simp [show dispatching.dispTrace = [] from rfl])

theorem quiescentEmpty_reset : QuiescentEmpty State.reset := ⟨inv_reset, rfl, rfl⟩

/-- IngestStoresOrDrops: the last byte that fits, and the first that does not. -/
theorem witness_ingest : ({ State.reset with rxLen := 499 } : State).rxLen.toNat < Config.capacity ∧
    Config.capacity ≤ ({ State.reset with rxLen := 500 } : State).rxLen.toNat := by decide

/-- ByteRowsStoreTheirByte: the ends of each range. -/
theorem witness_byteRows : (9 : Nibble).toNat ≤ 9 ∧ (1 ≤ (1 : BitVec 3).toNat ∧ (1 : BitVec 3).toNat ≤ 6) ∧
    (1 ≤ (6 : BitVec 3).toNat ∧ (6 : BitVec 3).toNat ≤ 6) ∧ isOtherByte 0x00 = true ∧ isOtherByte 0x47 = true ∧
    isOtherByte 0xFF = true := by decide

/-- ByteClassesByRange: a byte of each class, at the ends of the ranges. -/
theorem witness_byteClasses : classify 0x30 = .digit ∧ classify 0x39 = .digit ∧ classify 0x41 = .upper ∧
    classify 0x46 = .upper ∧ classify 0x61 = .lower ∧ classify 0x66 = .lower ∧ classify 0x3C = .start ∧
    classify 0x3E = .stop ∧ classify 0x3A = .other := by decide

/-- FrameArrivesByPosition: `<000000>` into a buffer it fills to the last cell. -/
theorem witness_frameArrives : WellFormed (.frame (pair 0 0) (pair 0 0) [] (pair 0 0)) ∧
    (fed (List.replicate 492 0x78)).Holds (List.replicate 492 0x78) ∧
    (List.replicate 492 (0x78 : Byte)).length + (2 * ((pair 0 0).value.toNat + 3) + 2) ≤ Config.capacity :=
  ⟨by decide, holds_fed _ (by rw [List.length_replicate]; decide), by rw [List.length_replicate]; decide⟩

/-- HexencGivesUpperCaseDigits: both branches of both digits. -/
theorem witness_hexenc : (0x9A : Byte).toNat / 16 ≤ 9 ∧ 10 ≤ (0x9A : Byte).toNat % 16 ∧
    10 ≤ (0xA9 : Byte).toNat / 16 ∧ (0xA9 : Byte).toNat % 16 ≤ 9 := by decide

/-- HexdecDecodesOrFails. -/
theorem witness_hexdec : hexVal 0x30 = some 0 ∧ hexVal 0x66 = some 15 ∧ hexVal 0x47 = none ∧ hexVal 0x40 = none := by
  decide

/-- ChecksumIsXorFold: no argument, and thirty-two. -/
theorem witness_checksum : ((0 : ArgCount).toNat ≤ Config.maxArgs ∧ (0 : ArgCount).toNat ≤ ([] : List Byte).length) ∧
    ((32 : ArgCount).toNat ≤ Config.maxArgs ∧ (32 : ArgCount).toNat ≤ (List.replicate 32 (0xFF : Byte)).length) := by
  decide

/-- EncodeWritesTheWireFrame: 32 arguments, and 33. -/
theorem witness_encode : ((List.replicate 32 (0 : Byte)).length = (32 : ArgCount).toNat ∧
    (32 : ArgCount).toNat ≤ Config.maxArgs) ∧ ((List.replicate 33 (0 : Byte)).length = (33 : ArgCount).toNat ∧
    Config.maxArgs < (33 : ArgCount).toNat) := by decide

/-- DecodeAcceptsExactlySpelledFrames: a span that spells a Frame, and the empty span, which spells none. -/
theorem witness_decode : Spells (spanOf wire0) frame0 ∧ ∀ f, ¬ Spells [] f := by
  refine ⟨⟨by decide, by decide, by decide, by decide, by decide, ?_, by decide⟩, ?_⟩
  · intro i h; exact absurd h (by simp [frame0])
  · rintro f ⟨_, _, h, _⟩; simp at h

/-- ValidateComparesChecksum: each case, and a Frame without arguments. -/
theorem witness_validate : frame1.checksum = checksumOf frame1.command frame1.argCount frame1.args ∧
    (⟨0xAA, 1, [0xAA], 0⟩ : Frame).checksum ≠ checksumOf 0xAA 1 [0xAA] ∧ frame0.argCount = 0 := by decide

/-- DecodeOfEncodeIsTheFrame and EncodeIsInjective. -/
theorem witness_roundTrip : frame1.argCount.toNat ≤ Config.maxArgs ∧ frame1.args.length = frame1.argCount.toNat ∧
    ValidFrame frame1 ∧ encodeFrame frame1 = encodeFrame frame1 := ⟨by decide, by decide, validFrame1, rfl⟩

/-- SingleBitFlipsAreCaught: the flip that is accepted, bit 5 of the `A` of `<01020A0B02>` (V-codec-9). -/
theorem witness_flip : ValidFrame frame1 ∧ encodeFrame frame1 = some wire1 ∧ 5 < (spanOf wire1).length ∧ 5 < 8 ∧
    decodeSpan (flipBit (spanOf wire1) 5 5) = some frame1 ∧ validates frame1 = true :=
  ⟨validFrame1, by decide, by decide, by decide, by decide, by decide⟩

/-- ChecksumIgnoresArgumentOrder (V-codec-4: the order of arguments does not matter). -/
theorem witness_order : (([1, 2, 3] : List Byte).take (3 : ArgCount).toNat).Perm
    (([3, 2, 1] : List Byte).take (3 : ArgCount).toNat) := by decide

/-- ScanResynchronises: a START behind garbage, and none at all. -/
theorem witness_scan : ((at' .scanning [0x78, 0x3C]).asm = .scanning ∧ (at' .scanning [0x78, 0x3C]).Holds [0x78, 0x3C] ∧
      ([0x78, 0x3C] : List Byte)[1]? = some Config.start ∧
      ∀ i, i < 1 → ([0x78, 0x3C] : List Byte)[i]? ≠ some Config.start) ∧
    ((at' .scanning []).asm = .scanning ∧ (at' .scanning []).Holds [] ∧ Config.start ∉ ([] : List Byte)) := by
  refine ⟨⟨rfl, holds_at _ _ (by decide), by decide, by decide⟩, rfl, holds_at _ _ (by decide), by decide⟩

/-- CollectFindsFrameBoundary: `<>`, a full buffer without STOP, and one byte less. -/
theorem witness_collect : ((at' .collecting [0x3C, 0x3E]).asm = .collecting ∧
      (at' .collecting [0x3C, 0x3E]).Holds [0x3C, 0x3E] ∧ ([0x3C, 0x3E] : List Byte)[1]? = some Config.stop ∧
      ∀ i, 1 ≤ i → i < 1 → ([0x3C, 0x3E] : List Byte)[i]? ≠ some Config.stop) ∧
    (∀ n, n = 498 ∨ n = 499 → (at' .collecting (0x3C :: List.replicate n 0x41)).asm = .collecting ∧
      (at' .collecting (0x3C :: List.replicate n 0x41)).Holds (0x3C :: List.replicate n 0x41) ∧
      Config.stop ∉ (0x3C :: List.replicate n (0x41 : Byte)).drop 1 ∧
      (0x3C :: List.replicate n (0x41 : Byte)).length = n + 1 ∧ n + 1 ≤ Config.capacity) := by
  refine ⟨⟨rfl, holds_at _ _ (by decide), by decide, by decide⟩, fun n hn => ?_⟩
  have hcap : n + 1 ≤ Config.capacity := by unfold Config.capacity; omega
  refine ⟨?_, holds_at _ _ (by simpa using hcap), ?_, by simp, hcap⟩
  · rfl
  · rw [List.drop_one, List.tail_cons, List.mem_replicate]; rintro ⟨_, h⟩; exact absurd h (by decide)

/-- DecodeStepChoosesDispatchOrDiscard: a valid frame, a mismatch, and the empty span. -/
theorem witness_decodeStep : (∀ w, w = wire1 ∨ w = wire1Bad ∨ w = [0x3C, 0x3E] →
      ((at' .decoding w).setStopIdx (w.length - 1)).asm = .decoding ∧
      ((at' .decoding w).setStopIdx (w.length - 1)).Holds w ∧
      1 ≤ ((at' .decoding w).setStopIdx (w.length - 1)).stopIdx.toNat ∧
      ((at' .decoding w).setStopIdx (w.length - 1)).stopIdx.toNat ≤ w.length) ∧
    decodeSpan ((wire1.drop 1).take 10) = some frame1 ∧
    decodeSpan ((wire1Bad.drop 1).take 10) = some ⟨0x01, 2, [0x0A, 0x0B], 0x06⟩ ∧ decodeSpan [] = none := by
  refine ⟨?_, by decide, by decide, by decide⟩
  rintro w (rfl | rfl | rfl) <;>
    exact ⟨rfl, (holds_at .decoding _ (by decide)).congr rfl rfl, by decide, by decide⟩

/-- DispatchHandsOverAndCompacts, DispatchPortIsStable, DispatchPortShowsTheFrame. -/
theorem witness_dispatch : dispatching.asm = .dispatch ∧ dispatching.Holds wire0 ∧
    dispatching.stopIdx.toNat < wire0.length ∧ FramerInv dispatching ∧
    exec (.ingest 0x3C) dispatching = .next (dispatching.receive 0x3C) ∧
    Instr.ingest 0x3C ≠ .aDispatch true ∧ Instr.ingest 0x3C ≠ .reset :=
  ⟨rfl, holds_dispatching, by decide, inv_dispatching, rfl, by decide, by decide⟩

/-- DispatchPortShowsTheFrame: RXF with an argument, at the last index. -/
theorem witness_port : (1 : Nat) < frame1.argCount.toNat ∧ frame1.args[1]? = some 0x0B := by decide

/-- DiscardRaisesLatchedError: both errors. -/
theorem witness_discard (e : BitVec 2) (he : e = 1 ∨ e = 2) :
    (((at' .discard [0x3C, 0x3E]).setStopIdx 1).setRxErr e).asm = .discard ∧
    (((at' .discard [0x3C, 0x3E]).setStopIdx 1).setRxErr e).Holds [0x3C, 0x3E] ∧
    (((at' .discard [0x3C, 0x3E]).setStopIdx 1).setRxErr e).stopIdx.toNat < ([0x3C, 0x3E] : List Byte).length ∧
    (((at' .discard [0x3C, 0x3E]).setStopIdx 1).setRxErr e).rxErr = e :=
  ⟨rfl, (holds_at .discard [0x3C, 0x3E] (by decide)).congr rfl rfl, by rcases he with rfl | rfl <;> decide, rfl⟩

/-- NotEnabledChangesNothing: Idle for all five, and Dispatch without an answer. -/
theorem witness_notEnabled : State.reset.asm ≠ .scanning ∧ State.reset.asm ≠ .collecting ∧
    State.reset.asm ≠ .decoding ∧ State.reset.asm ≠ .dispatch ∧ State.reset.asm ≠ .discard ∧
    (dispatching.asm ≠ .dispatch ∨ false = false) := by decide

/-- TransitionTableIsComplete: the first row, and the hand-over. -/
theorem witness_transition : (∃ t, exec .tick State.reset = .next t ∧ t.asm ≠ State.reset.asm ∧
      Instr.tick ≠ .reset) ∧
    ∃ t, exec (.aDispatch true) dispatching = .next t ∧ t.asm ≠ dispatching.asm ∧ Instr.aDispatch true ≠ .reset :=
  ⟨⟨_, rfl, by decide, by decide⟩, _, rfl, by decide, by decide⟩

/-- TickEndsQuiescent: A.SCAN of an empty buffer. -/
theorem witness_tickEnds : FramerInv (at' .scanning []) ∧
    ∃ t, exec .aScan (at' .scanning []) = .next t ∧ Instr.aScan ≠ .reset ∧ (at' .scanning []).asm ≠ .idle ∧
      t.asm = .idle :=
  ⟨.of_scanning_or_idle ⟨rfl, by decide⟩ (.inl rfl) (by intro f h; cases h), _, rfl, by decide, by decide, rfl⟩

/-- SendFrameWritesOneFrame: the most arguments, and one more. -/
theorem witness_sendFrame : State.reset.rawOpen = false ∧ (32 : ArgCount).toNat ≤ Config.maxArgs ∧
    Config.maxArgs < (33 : ArgCount).toNat := by decide

/-- OpenRawMessageBlocksFrames. -/
theorem witness_openRaw : ((State.reset.setRawOpen true).setScript [.txf 1 0 0]).rawOpen = true ∧
    ∀ r ∈ ((State.reset.setRawOpen true).setScript [.txf 1 0 0]).script, ∃ c n a, r = .txf c n a :=
  ⟨rfl, by intro r h; rw [List.mem_singleton.mp h]; exact ⟨1, 0, 0, rfl⟩⟩

/-- SendBufferWritesVerbatim. -/
theorem witness_sendBuffer : ([0x3C] : List Byte) ≠ [] := by decide

/-- TransmitAndReceiveAreIndependent: a transmit operation, a receive operation, and states that agree on one side. -/
theorem witness_independent :
    ((∃ c n a, Instr.sendFrame 1 0 0 = .sendFrame c n a) ∧ (∃ t, exec (.sendFrame 1 0 0) State.reset = .next t) ∧
      SameTransmit State.reset (fed wire0)) ∧
    ((∀ c n a, Instr.ingest 0 ≠ .sendFrame c n a) ∧ (∀ m l, Instr.ingest 0 ≠ .sendBuffer m l) ∧
      Instr.ingest 0 ≠ .reset ∧ (∃ t, exec (.ingest 0) State.reset = .next t) ∧
      SameReceive State.reset (State.reset.emitTx wire0) ∧
      (State.reset.emitTx wire0).freeCount = State.reset.freeCount) := by
  refine ⟨⟨⟨1, 0, 0, rfl⟩, ⟨_, rfl⟩, ⟨rfl, rfl, rfl⟩⟩, ?_, ?_, by decide, ⟨_, rfl⟩, ⟨rfl, rfl, rfl, rfl, rfl, rfl⟩, rfl⟩
  · intro c n a h; cases h
  · intro m l h; cases h

/-- TickStartsScanning and TickWhileBusyIsIgnored. -/
theorem witness_tick : State.reset.asm = .idle ∧ (dispatching.setScript [.tick]).asm ≠ .idle ∧
    (dispatching.setScript [.tick]).script = .tick :: [] := by decide

/-- TickWithNothingToDoIsNoOp: an empty buffer, and a partial frame. -/
theorem witness_noOp : (State.reset.asm = .idle ∧ State.reset.Holds [] ∧ QuiescentShape []) ∧
    ((fed [0x3C, 0x30]).asm = .idle ∧ (fed [0x3C, 0x30]).Holds [0x3C, 0x30] ∧ QuiescentShape [0x3C, 0x30]) :=
  ⟨⟨rfl, holds_reset, .inl rfl⟩, rfl, holds_fed _ (by decide), .inr ⟨rfl, by decide, by decide⟩⟩

/-- TickTerminatesInBound. -/
theorem witness_terminates : FramerInv (fed wire0) ∧ (fed wire0).asm = .idle ∧ (fed wire0).Holds wire0 :=
  ⟨inv_fed, rfl, holds_fed _ (by decide)⟩

/-- A sample in which a byte arrives and the host answers no dispatch. -/
def pinsRx (b : Byte) : Pins := ⟨false, true, b, false, false, false, 0, 0, 0, false, 0, false⟩

/-- ResetEmptiesAndIdles: a sample under reset. -/
theorem witness_reset : ({ pinsRx 0 with rst := true } : Pins).rst = true := rfl

/-- A sample in which nothing is asked for, and one in which a byte arrives, a tick, a frame of 33 arguments and a raw
byte are requested, and the host answers no dispatch. -/
def pinsNone : Pins := ⟨false, false, 0, false, false, false, 0, 0, 0, false, 0, false⟩
def pinsAll (b : Byte) : Pins := ⟨false, true, b, true, false, true, 0x02, 33, 0, true, 0x68, true⟩

/-- R216 (c), R172: A.DISCARD, INGEST and SEND_FRAME in one sample: bits 0 and 4 pulse together, the raw byte waits. -/
theorem test_sample_pulses : (nextOf (step ((((at' .discard [0x3C, 0x3E]).setStopIdx 1).setRxErr 1).setScript
      [.cycle (pinsAll 0x3C)]))).map (fun t => (t.buffer, t.evTrace, t.ev)) =
      some (some [0x3C], [⟨.conversionError, 2⟩, ⟨.encodeError, 33⟩], 0b10001) ∧
    (State.reset.outputsAt (pinsAll 0)).txrReady = false ∧ (State.reset.outputsAt (pinsRx 0)).txrReady = true := by
  decide

/-- R31, R210: a pulse is over in the next sample; R35: so is a byte at the sink. -/
theorem test_sample_idle : (nextOf (step ({ State.reset with ev := 0b10000, txNow := [0x68] }.setScript
      [.cycle pinsNone]))).map (fun t => (t.ev, t.txNow, t.script)) = some (0, [], []) := by decide

/-- R172, R173: a raw byte beside a received one; the sink gets it in this sample. -/
theorem test_sample_raw : (nextOf (step (State.reset.setScript
      [.cycle { pinsRx 0x3C with txrValid := true, txrData := 0x68 }]))).map
      (fun t => (t.buffer, t.txNow, t.rawOpen)) = some (some [0x3C], [0x68], true) := by decide

/-- SameCycleDriverBeforeIngest: a sample with a transaction of each agent (A.SCAN, INGEST, SEND_FRAME), and one with
the start of a tick and a raw byte. -/
theorem witness_sameCycle :
    (∃ s u v w : State, s.script = .cycle (pinsAll 0x3C) :: [] ∧ (pinsAll 0x3C).rst = false ∧ s.asm = .scanning ∧
      Took (microOp s.asm (pinsAll 0x3C).dispReady) { s with script := [], ev := 0, txNow := [] } u ∧
      Took (some (.ingest 0x3C)) u v ∧ Took (some (.sendFrame 0x02 33 0)) v w) ∧
    ∃ s u v w : State, s.script = .cycle { pinsAll 0 with txfValid := false } :: [] ∧ s.asm = .idle ∧
      Took (some .tick) { s with script := [], ev := 0, txNow := [] } u ∧
      Took (some (.ingest 0)) u v ∧ Took (some (.sendBuffer [0x68] true)) v w :=
  ⟨⟨(at' .scanning [0x78]).setScript [.cycle (pinsAll 0x3C)], _, _, _, rfl, rfl, rfl, ⟨_, rfl, rfl⟩, ⟨_, rfl, rfl⟩,
      ⟨_, rfl, rfl⟩⟩,
    State.reset.setScript [.cycle { pinsAll 0 with txfValid := false }], _, _, _, rfl, rfl, ⟨_, rfl, rfl⟩,
      ⟨_, rfl, rfl⟩, ⟨_, rfl, rfl⟩⟩

/-- PortTransactionsFollowValidAndReady: a sample without reset, in Idle and in Dispatch. -/
theorem witness_ports : (pinsAll 0).rst = false ∧ State.reset.asm = .idle ∧ dispatching.asm = .dispatch := by decide

/-- ErrorsAreRaisedByTheirRule: each of the five errors. -/
theorem witness_errors :
    (nextOf (exec .aDiscard (((at' .discard [0x3C, 0x3E]).setStopIdx 1).setRxErr 1))).map (·.evTrace) =
      some [⟨.conversionError, 2⟩] ∧
    (nextOf (exec .aDiscard (((at' .discard wire1Bad).setStopIdx 11).setRxErr 2))).map (·.evTrace) =
      some [⟨.checksumMismatch, 12⟩] ∧
    (nextOf (exec (.ingest 0x42) { State.reset with rxLen := 500 })).map (·.evTrace) = some [⟨.rxDrop, 0x42⟩] ∧
    (nextOf (exec (.sendFrame 0 63 0) State.reset)).map (·.evTrace) = some [⟨.encodeError, 63⟩] := by decide

/-- ErrorsAreRaisedByTheirRule: BufferOverflow, from the full buffer of V-asm-2. -/
theorem witness_overflow (buf : List Byte) (hb : buf = 0x3C :: List.replicate 499 0x41) :
    ∃ t, exec .aCollect (at' .collecting buf) = .next t ∧
      t.evTrace = (at' .collecting buf).evTrace ++ [⟨.bufferOverflow, 500⟩] := by
  have hl : buf.length = Config.capacity := by
    rw [hb, List.length_cons, List.length_replicate]; rfl
  have h := holds_at .collecting buf hl.le
  have hf : find buf Config.stop 1 = none := find_of_not_mem (by
    subst hb; rw [List.drop_one, List.tail_cons, List.mem_replicate]; rintro ⟨_, h⟩; exact absurd h (by decide))
  have hn : (at' .collecting buf).rxLen.toNat = Config.capacity := by rw [h.1, hl]
  refine ⟨((at' .collecting buf).newTransaction.resetBuf.raise .bufferOverflow Config.capacity).goto .scanning, ?_, by simp; rfl⟩
  show execACollect _ = _
  unfold execACollect
  rw [if_pos (show (at' .collecting buf).asm = .collecting from rfl), State.buffer_of_holds h]
  simp only [hf, hn, ↓reduceIte]

/-- OnlyValidFramesAreHandedOver. -/
theorem witness_handOver : FramerInv dispatching ∧ ∃ t, exec (.aDispatch true) dispatching = .next t ∧
    t.dispTrace ≠ dispatching.dispTrace := ⟨inv_dispatching, _, rfl, by decide⟩

/-- TracesOnlyGrow, StepKeepsInvariant, NoFatalPath, StepKeepsMemoryCanonical: a step that hands a frame over. -/
theorem witness_step : FramerInv (dispatching.setScript [.driver true]) ∧
    (dispatching.setScript [.driver true]).mem.Wf ∧ ∃ t, step (dispatching.setScript [.driver true]) = .next t ∧
      t.dispTrace = [frame0] :=
  ⟨inv_dispatching.congr rfl rfl rfl rfl rfl rfl rfl, inv_dispatching.buffer.wf, _, rfl, by decide⟩

/-- StepRunsDecodedOperation: two bytes on the wire, one left. -/
theorem witness_stepRuns : (State.reset.setScript [.wire [0x41, 0x42]]).script = [.wire [0x41, 0x42]] ∧
    decode State.reset.asm (.wire [0x41, 0x42]) = .ok (.upper 1, some (.wire [0x42])) := by decide

/-- StepWithoutOperation: no request, an empty wire, an empty run, the driver's turn in Idle, an idle sample. -/
theorem witness_noOperation : State.reset.script = [] ∧
    (∀ r, r = .wire [] ∨ r = .txr [] true ∨ r = .driver true → (∀ p, r ≠ .cycle p) ∧
      (State.reset.setScript [r]).script = r :: [] ∧ ∃ e, decode (State.reset.setScript [r]).asm r = .error e) ∧
    (State.reset.setScript [.cycle pinsNone]).script = .cycle pinsNone :: [] ∧
    pinRequests pinsNone (State.reset.setScript [.cycle pinsNone]) = [] := by
  refine ⟨rfl, ?_, rfl, by decide⟩
  rintro r (rfl | rfl | rfl) <;> exact ⟨fun p h => Request.noConfusion h, rfl, _, rfl⟩

/-- DecodeOfEncodeIsTheOperation: a frame whose command has a lower-case digit. -/
theorem witness_encoding : WellFormed (.frame ⟨⟨10, true⟩, ⟨15, false⟩⟩ (pair 0 0) [] (pair 10 15)) ∧
    ([0x00] : List Byte) ≠ [] := by decide

/-- FragmentationInvariance, GarbageTolerance, OverflowContainment, StrayStartLosesTheFrame: `<000000>` from reset, a
tick in the middle; garbage about it; a stream of 499 bytes without STOP. -/
theorem witness_runs : QuiescentEmpty State.reset ∧ ValidFrame frame0 ∧ encodeFrame frame0 = some wire0 ∧
    (∀ r ∈ (wire0.take 4).map Request.rx ++ [Request.tick, .driver false] ++ (wire0.drop 4).map Request.rx,
      ReceiveRequest r) ∧
    ((wire0.take 4).map Request.rx ++ [Request.tick, .driver false] ++ (wire0.drop 4).map Request.rx).filterMap rxByte = wire0 ∧
    (Config.start ∉ ([0x78] : List Byte) ∧ Config.stop ∉ ([0x78] : List Byte) ∧
      ([0x78] ++ wire0 ++ [0x78]).length ≤ Config.capacity ∧
      (Config.start :: ([0x78] ++ wire0)).length ≤ Config.capacity) ∧
    (Config.stop ∉ List.replicate 499 (0x41 : Byte) ∧ Config.capacity ≤ (List.replicate 499 (0x41 : Byte)).length + 1) := by
  refine ⟨quiescentEmpty_reset, validFrame0, by decide, ?_, by decide, by decide, ?_, ?_⟩
  · intro r hr
    simp only [List.mem_append, List.mem_map, List.mem_cons, List.not_mem_nil, or_false] at hr
    rcases hr with (⟨b, _, rfl⟩ | rfl | rfl) | ⟨b, _, rfl⟩
    · exact .inl ⟨b, rfl⟩
    · exact .inr (.inl rfl)
    · exact .inr (.inr ⟨_, rfl⟩)
    · exact .inl ⟨b, rfl⟩
  · rw [List.mem_replicate]; rintro ⟨_, h⟩; exact absurd h (by decide)
  · rw [List.length_replicate]; decide

/-- EndToEndDelivery. -/
theorem witness_endToEnd : State.reset.rawOpen = false ∧ (32 : ArgCount).toNat ≤ Config.maxArgs ∧
    QuiescentEmpty State.reset := ⟨rfl, by decide, quiescentEmpty_reset⟩

/-- Past the end of its script a run stays where it is. -/
theorem run_past_end {j : Nat} {s t : State} (h : Host.Core.run Sys2Proof.core j s = .next t) (ht : t.script = [])
    (k : Nat) : Host.Core.run Sys2Proof.core (k + j) s = .next t := by
  rw [Nat.add_comm, run_add h]
  induction k with
  | zero => rfl
  | succ k ih => rw [run_succ_of_next (show step t = .next t by unfold step; rw [ht])]; exact ih

/-- The reset machine after one START has arrived. -/
def oneStart : State := { State.reset with mem := [(0, 0x3C)], rxLen := 1 }

/-- ScheduleIndependence: one byte, with a tick before it, a turn in which no dispatch is answered, and without. -/
theorem witness_schedules : QuiescentEmpty State.reset ∧
    (∀ r ∈ [Request.tick, .driver false, .rx 0x3C], ReceiveRequest r) ∧ (∀ r ∈ [Request.rx 0x3C], ReceiveRequest r) ∧
    [Request.tick, .driver false, .rx 0x3C].filterMap rxByte = [Request.rx 0x3C].filterMap rxByte ∧
    StaysBelowCapacity State.reset [.tick, .driver false, .rx 0x3C] ∧ StaysBelowCapacity State.reset [.rx 0x3C] := by
  refine ⟨quiescentEmpty_reset, ?_, ?_, by decide, ?_, ?_⟩
  · intro r hr
    simp only [List.mem_cons, List.not_mem_nil, or_false] at hr
    rcases hr with rfl | rfl | rfl
    · exact .inr (.inl rfl)
    · exact .inr (.inr ⟨_, rfl⟩)
    · exact .inl ⟨_, rfl⟩
  · intro r hr; rw [List.mem_singleton.mp hr]; exact .inl ⟨_, rfl⟩
  · intro k t h
    match k, h with
    | 0, h => cases h; decide
    | 1, h => cases h; decide
    | 2, h => cases h; decide
    | k + 3, h =>
      cases (run_past_end (t := oneStart) (by rfl) rfl k).symm.trans h; decide
  · intro k t h
    match k, h with
    | 0, h => cases h; decide
    | k + 1, h =>
      cases (run_past_end (t := oneStart) (by rfl) rfl k).symm.trans h; decide

end Sys2Proof.Machine
end

section
/-! PROOFS. Every step completes: which operations can stop the machine, why the invariant keeps them from it (R11,
R219), and what a step does that selects no operation (R196). -/

namespace Sys2Proof.Machine

variable {s t : State}

/-! ### Micro-operations that are not enabled (R11) -/

theorem execAScan_of_not_enabled (h : s.asm ≠ .scanning) : execAScan s = .next s := if_neg h

theorem execACollect_of_not_enabled (h : s.asm ≠ .collecting) : execACollect s = .next s := if_neg h

theorem execADecode_of_not_enabled (h : s.asm ≠ .decoding) : execADecode s = .next s := if_neg h

theorem execADispatch_of_not_enabled {r : Bool} (h : ¬ (s.asm = .dispatch ∧ r = true)) :
    execADispatch r s = .next s := if_neg h

theorem execADiscard_of_not_enabled (h : s.asm ≠ .discard) : execADiscard s = .next s := if_neg h

/-- Settles O23: each micro-operation's own lemma for the case that its `require` does not hold. -/
theorem notEnabledChangesNothing : Obligations.NotEnabledChangesNothing := fun _ =>
  ⟨execAScan_of_not_enabled, execACollect_of_not_enabled, execADecode_of_not_enabled,
    fun _ h => execADispatch_of_not_enabled fun ⟨ha, hr⟩ => h.elim (· ha) (by simp [hr]),
    execADiscard_of_not_enabled⟩

/-! ### Steps that select no operation (R11, R196) -/

theorem step_of_script_nil (h : s.script = []) : step s = .next s := by
  unfold step; rw [h]

theorem step_of_cycle {p : Pins} {rest : List Request} (h : s.script = .cycle p :: rest) :
    step s = (s.setScript rest).sample p := by
  unfold step; rw [h]

theorem step_of_decode_error {r : Request} {rest : List Request} {e : DecodeReject} (hr : ∀ p, r ≠ .cycle p)
    (hd : decode s.asm r = .error e) (h : s.script = r :: rest) : step s = .next (s.setScript rest) := by
  unfold step
  split
  · rename_i hs; cases h.symm.trans hs
  · rename_i p rs hs
    cases h.symm.trans hs
    exact absurd rfl (hr p)
  · rename_i r' rs _ hs
    cases h.symm.trans hs
    rw [hd]

/-- A sample that asks for nothing ends the pulses and the bytes at the sink (R210). -/
theorem State.sample_of_no_requests {p : Pins} (h : pinRequests p s = []) :
    s.sample p = .next s.newTransaction := by
  rw [State.sample, h, runSample_nil]

/-- Settles O47, a case for each kind of step without an operation. -/
theorem stepWithoutOperation : Obligations.StepWithoutOperation := by
  intro s rest
  refine ⟨step_of_script_nil, fun r e => step_of_decode_error, fun _ => rfl, rfl, fun _ => rfl, ?_⟩
  intro p hp hs
  rw [step_of_cycle hs, State.sample_of_no_requests (by rwa [pinRequests_setScript])]
  rfl

/-! ### The operations outside the assembler always complete -/

/-- A pure function answers and does nothing else (R110 to R115). -/
theorem exec_fnCall (c : FnCall) (s : State) : ∃ r, exec c.instr s = .next (s.answer r) := by
  cases c with
  | hexenc b => exact ⟨_, rfl⟩
  | checksum c n a => exact ⟨_, rfl⟩
  | hexdec h l => change ∃ r, execHexdec h l s = _; unfold execHexdec; split <;> exact ⟨_, rfl⟩
  | encode f => change ∃ r, execEncode f s = _; unfold execEncode; split <;> exact ⟨_, rfl⟩
  | decode span => change ∃ r, execDecode span s = _; unfold execDecode; split <;> exact ⟨_, rfl⟩
  | validate f => change ∃ r, execValidate f s = _; unfold execValidate; split <;> exact ⟨_, rfl⟩

theorem execTick_next (s : State) : ∃ t, execTick s = .next t := by
  unfold execTick; split <;> exact ⟨_, rfl⟩

theorem execSendFrame_next (c : Byte) (n : ArgCount) (a : ArgPort) (s : State) :
    ∃ t, execSendFrame c n a s = .next t := by
  unfold execSendFrame
  split
  · exact ⟨_, rfl⟩
  · split <;> exact ⟨_, rfl⟩

theorem execSendBuffer_next (m : List Byte) (last : Bool) (s : State) :
    ∃ t, execSendBuffer m last s = .next t := by
  unfold execSendBuffer; split <;> exact ⟨_, rfl⟩

/-! ### The micro-operations complete under the invariant

A.SCAN, A.COLLECT and A.DECODE read only cells below `rx_len`, and no COMPACT asks for more bytes than there are. -/

/-- A.SCAN drops at most the whole buffer. -/
theorem find_getD_length_le (l : List Byte) (b : Byte) (n : Nat) : (find l b n).getD l.length ≤ l.length := by
  rcases h : find l b n with _ | e
  · exact le_rfl
  · exact (find_lt h).le

/-- The frame in hand lies inside the buffer (R28). -/
theorem StopIdxOk.inHand_le (h : StopIdxOk s) : s.inHand ≤ s.rxLen.toNat := h.2.1

theorem FramerInv.execAScan_next (h : FramerInv s) : ∃ t, execAScan s = .next t := by
  by_cases ha : s.asm = .scanning
  · obtain ⟨buf, hb, -⟩ := h.holds
    have hk : (find buf Config.start 0).getD buf.length ≤ s.newTransaction.rxLen.toNat :=
      hb.1 ▸ find_getD_length_le buf Config.start 0
    simp only [execAScan, if_pos ha, State.buffer_of_holds hb, State.compact_of_le hk]
    split <;> exact ⟨_, rfl⟩
  · exact ⟨s, execAScan_of_not_enabled ha⟩

theorem FramerInv.execACollect_next (h : FramerInv s) : ∃ t, execACollect s = .next t := by
  by_cases ha : s.asm = .collecting
  · obtain ⟨buf, hb, -⟩ := h.holds
    simp only [execACollect, if_pos ha, State.buffer_of_holds hb]
    split
    · exact ⟨_, rfl⟩
    · split <;> exact ⟨_, rfl⟩
  · exact ⟨s, execACollect_of_not_enabled ha⟩

theorem FramerInv.execADecode_next (h : FramerInv s) : ∃ t, execADecode s = .next t := by
  by_cases ha : s.asm = .decoding
  · obtain ⟨buf, hb, -⟩ := h.holds
    obtain ⟨hone, hlt, -⟩ := h.stopIdx (.inl ha)
    have hspan := State.readRange_of_holds hb (s.stopIdx.toNat - 1) 1 (by rw [← hb.1]; omega)
    simp only [execADecode, if_pos ha, hspan]
    split
    · exact ⟨_, rfl⟩
    · split <;> exact ⟨_, rfl⟩
  · exact ⟨s, execADecode_of_not_enabled ha⟩

theorem FramerInv.execADispatch_next (h : FramerInv s) (r : Bool) : ∃ t, execADispatch r s = .next t := by
  by_cases ha : s.asm = .dispatch ∧ r = true
  · have hk : s.inHand ≤ (s.newTransaction.emitDispatch s.dispatched).rxLen.toNat :=
      (h.stopIdx (.inr (.inl ha.1))).inHand_le
    simp only [execADispatch, if_pos ha, State.compact_of_le hk]
    exact ⟨_, rfl⟩
  · exact ⟨s, execADispatch_of_not_enabled ha⟩

theorem FramerInv.execADiscard_next (h : FramerInv s) : ∃ t, execADiscard s = .next t := by
  by_cases ha : s.asm = .discard
  · have hk : s.inHand ≤ (s.newTransaction.raise s.latchedError s.inHand).rxLen.toNat :=
      (h.stopIdx (.inr (.inr ha))).inHand_le
    simp only [execADiscard, if_pos ha, State.compact_of_le hk]
    exact ⟨_, rfl⟩
  · exact ⟨s, execADiscard_of_not_enabled ha⟩

/-- R219: under the invariant every operation completes. -/
theorem FramerInv.exec_next (h : FramerInv s) (i : Instr) : ∃ t, exec i s = .next t := by
  have fn (c : FnCall) : ∃ t, exec c.instr s = .next t := (exec_fnCall c s).imp' _ fun _ => id
  cases i with
  | aScan => exact h.execAScan_next
  | aCollect => exact h.execACollect_next
  | aDecode => exact h.execADecode_next
  | aDispatch r => exact h.execADispatch_next r
  | aDiscard => exact h.execADiscard_next
  | hexenc b => exact fn (.hexenc b)
  | hexdec h l => exact fn (.hexdec h l)
  | checksum c n a => exact fn (.checksum c n a)
  | encode f => exact fn (.encode f)
  | decode span => exact fn (.decode span)
  | validate f => exact fn (.validate f)
  | sendFrame c n a => exact execSendFrame_next c n a s
  | sendBuffer m last => exact execSendBuffer_next m last s
  | tick => exact execTick_next s
  | digit _ | start | stop | upper _ | lower _ | other _ | frame _ _ _ _ | ingest _ | reset => exact ⟨_, rfl⟩

/-! ### The operations keep the invariant (R26 to R29, R144) -/

/-- In Collecting the invariant asks for the buffer, its START and the frames handed over (R27). -/
theorem FramerInv.of_collecting (hb : BufferOk t) (ha : t.asm = .collecting) (h0 : t.memRead 0 = some Config.start)
    (hh : ∀ f ∈ t.dispTrace, ValidFrame f) : FramerInv t := by
  refine ⟨hb, fun _ => h0, ?_, ?_, ?_, hh⟩ <;> simp [ha]

/-- In Decoding the invariant asks for the buffer, `stop_idx` and the frames handed over (R28). -/
theorem FramerInv.of_decoding (hb : BufferOk t) (ha : t.asm = .decoding) (hs : StopIdxOk t)
    (hh : ∀ f ∈ t.dispTrace, ValidFrame f) : FramerInv t := by
  refine ⟨hb, ?_, fun _ => hs, ?_, ?_, hh⟩ <;> simp [ha]

theorem FramerInv.answer (h : FramerInv s) (r : FnResult) : FramerInv (s.answer r) :=
  h.congr rfl rfl rfl rfl rfl rfl rfl

theorem FramerInv.receiveRead (h : FramerInv s) (b : Byte) : FramerInv (s.receiveRead b) := (h.receive b).answer _

theorem FramerInv.feed (h : FramerInv s) (bytes : List Byte) : FramerInv (s.feed bytes) :=
  State.feed_induction (fun _ b hs => hs.receive b) bytes s h

/-- What A.SCAN leaves, where it leaves anything, begins with the START it found (R141). -/
theorem memRead_zero_dropFront_find {buf : List Byte} (hb : s.Holds buf)
    (hne : (s.dropFront ((find buf Config.start 0).getD buf.length)).rxLen ≠ 0) :
    (s.dropFront ((find buf Config.start 0).getD buf.length)).memRead 0 = some Config.start := by
  rw [State.memRead_dropFront _ _ _ (hb.1 ▸ find_getD_length_le buf Config.start 0), Nat.zero_add, hb.2]
  rcases hf : find buf Config.start 0 with _ | e
  · rw [hf, Option.getD_none, State.dropFront_rxLen, hb.rxLen_eq, BitVec.sub_self] at hne
    exact absurd rfl hne
  · exact (find_eq_some hf).2.1

/-- The first STOP after the START is a valid `stop_idx` (R28, R142). -/
theorem stopIdxOk_setStopIdx {buf : List Byte} {e : Nat} (hb : s.Holds buf) (h0 : s.memRead 0 = some Config.start)
    (he : find buf Config.stop 1 = some e) : StopIdxOk (s.setStopIdx e) := by
  obtain ⟨hone, hstop, hfirst⟩ := find_eq_some he
  have hlt := find_lt he
  have hval : (s.setStopIdx e).stopIdx.toNat = e := by
    simpa using (hlt.trans hb.length_lt)
  simp only [StopIdxOk, hval, State.setStopIdx_rxLen, State.memRead_setStopIdx, h0, hb.1, hb.2]
  exact ⟨hone, hlt, trivial, hstop, hfirst⟩

theorem FramerInv.of_execAScan (h : FramerInv s) (he : execAScan s = .next t) : FramerInv t := by
  rcases execAScan_cases he with ⟨-, rfl⟩ | ⟨-, buf, k, hbuf, rfl, hk, ht⟩
  · exact h
  · have hb : BufferOk (s.newTransaction.dropFront ((find buf Config.start 0).getD buf.length)) :=
      BufferOk.dropFront (h.buffer.congr rfl rfl) _ hk
    rcases ht with ⟨-, rfl⟩ | ⟨hne, rfl⟩
    · exact .of_scanning_or_idle (hb.congr rfl rfl) (.inr rfl) h.handed
    · obtain ⟨buf', hholds, -⟩ := h.holds
      obtain rfl : buf' = buf := Option.some.inj ((State.buffer_of_holds hholds).symm.trans hbuf)
      exact .of_collecting (hb.congr rfl rfl) rfl
        (memRead_zero_dropFront_find (hholds.congr rfl rfl : s.newTransaction.Holds buf') hne) h.handed

theorem FramerInv.of_execACollect (h : FramerInv s) (he : execACollect s = .next t) : FramerInv t := by
  rcases execACollect_cases he with
    ⟨-, rfl⟩ | ⟨ha, buf, hbuf, ⟨e, hf, rfl⟩ | ⟨-, -, rfl⟩ | ⟨-, -, rfl⟩⟩
  · exact h
  · obtain ⟨buf', hholds, -⟩ := h.holds
    obtain rfl : buf' = buf := Option.some.inj ((State.buffer_of_holds hholds).symm.trans hbuf)
    exact .of_decoding (h.buffer.congr rfl rfl) rfl
      (stopIdxOk_setStopIdx (s := s.newTransaction) (hholds.congr rfl rfl) (h.collecting ha) hf) h.handed
  · exact .of_scanning_or_idle ((bufferOk_resetBuf s).congr rfl rfl) (.inl rfl) h.handed
  · exact .of_scanning_or_idle (h.buffer.congr rfl rfl) (.inr rfl) h.handed

/-- A Frame that DECODE answers and VALIDATE accepts is valid (R21). -/
theorem validFrame_of_decodeSpan {span : List Byte} {f : Frame} (hd : decodeSpan span = some f)
    (hv : validates f = true) : ValidFrame f :=
  ⟨(decodeSpan_shape hd).1, (decodeSpan_shape hd).2, (validates_iff f).mp hv⟩

/-- A.DECODE to Discard: `stop_idx` stays, and `rx_err` names why the span is refused (R29). -/
theorem FramerInv.to_discard (h : FramerInv s) (ha : s.asm = .decoding) {c : BitVec 2}
    (hc : ∃ span, s.span = some span ∧ ((c = 1 ∧ decodeSpan span = none) ∨
      (c = 2 ∧ ∃ f, decodeSpan span = some f ∧ validates f = false))) :
    FramerInv ((s.newTransaction.setRxErr c).goto .discard) :=
  ⟨h.buffer.congr rfl rfl, AsmState.noConfusion, fun _ => h.stopIdx (.inl ha), AsmState.noConfusion,
    fun _ => by simpa using hc, h.handed⟩

theorem FramerInv.of_execADecode (h : FramerInv s) (he : execADecode s = .next t) : FramerInv t := by
  rcases execADecode_cases he with
    ⟨-, rfl⟩ | ⟨ha, span, hs, ⟨hd, rfl⟩ | ⟨f, hd, hv, rfl⟩ | ⟨f, hd, hv, rfl⟩⟩
  · exact h
  · exact h.to_discard ha ⟨span, hs, .inl ⟨rfl, hd⟩⟩
  · exact ⟨h.buffer.congr rfl rfl, AsmState.noConfusion, fun _ => h.stopIdx (.inl ha),
      fun _ => ⟨validFrame_of_decodeSpan hd hv, span, by simpa using hs, hd⟩, AsmState.noConfusion, h.handed⟩
  · exact h.to_discard ha ⟨span, hs, .inr ⟨rfl, f, hd, hv⟩⟩

/-- The frame the dispatch port shows is RXF where RXF is valid (R35, R144). -/
theorem State.dispatched_eq_rxf (h : ValidFrame s.rxf) : s.dispatched = s.rxf := by
  rw [State.dispatched, List.take_of_length_le h.2.1.le]

theorem FramerInv.of_execADispatch {r : Bool} (h : FramerInv s) (he : execADispatch r s = .next t) : FramerInv t := by
  rcases execADispatch_cases he with ⟨-, rfl⟩ | ⟨ha, -, hk, rfl⟩
  · exact h
  · have hb : BufferOk ((s.newTransaction.emitDispatch s.dispatched).dropFront s.inHand) :=
      BufferOk.dropFront (h.buffer.congr rfl rfl) _ hk
    refine .of_scanning_or_idle (hb.congr rfl rfl) (.inl rfl) fun f hf => ?_
    have hvalid := (h.dispatch ha).1
    rcases List.mem_append.mp (show f ∈ s.dispTrace ++ [s.dispatched] from hf) with hold | hnew
    · exact h.handed f hold
    · rw [List.mem_singleton.mp hnew, State.dispatched_eq_rxf hvalid]
      exact hvalid

theorem FramerInv.of_execADiscard (h : FramerInv s) (he : execADiscard s = .next t) : FramerInv t := by
  rcases execADiscard_cases he with ⟨-, rfl⟩ | ⟨-, hk, rfl⟩
  · exact h
  · have hb : BufferOk ((s.newTransaction.raise s.latchedError s.inHand).dropFront s.inHand) :=
      BufferOk.dropFront (h.buffer.congr rfl rfl) _ hk
    exact .of_scanning_or_idle (hb.congr rfl rfl) (.inl rfl) h.handed

theorem FramerInv.of_execSendFrame {c : Byte} {n : ArgCount} {a : ArgPort} (h : FramerInv s)
    (he : execSendFrame c n a s = .next t) : FramerInv t := by
  rcases execSendFrame_cases he with ⟨-, rfl⟩ | ⟨-, -, rfl⟩ | ⟨-, -, w, -, rfl⟩
  all_goals exact h.congr rfl rfl rfl rfl rfl rfl rfl

theorem FramerInv.of_execSendBuffer {m : List Byte} {last : Bool} (h : FramerInv s)
    (he : execSendBuffer m last s = .next t) : FramerInv t := by
  rcases execSendBuffer_cases he with ⟨-, rfl⟩ | ⟨-, rfl⟩
  · exact h
  · exact h.congr rfl rfl rfl rfl rfl rfl rfl

theorem FramerInv.of_execTick (h : FramerInv s) (he : execTick s = .next t) : FramerInv t := by
  rcases execTick_cases he with ⟨-, rfl⟩ | ⟨-, rfl⟩
  · exact .of_scanning_or_idle (h.buffer.congr rfl rfl) (.inl rfl) h.handed
  · exact h

theorem FramerInv.of_execReset (h : FramerInv s) (he : execReset s = .next t) : FramerInv t := by
  cases he
  exact .of_scanning_or_idle ((bufferOk_resetBuf s).congr rfl rfl) (.inr rfl) h.handed

/-- Every operation keeps the invariant. -/
theorem FramerInv.of_exec (h : FramerInv s) {i : Instr} (he : exec i s = .next t) : FramerInv t := by
  have fn (c : FnCall) (hc : exec c.instr s = .next t) : FramerInv t := by
    obtain ⟨r, hr⟩ := exec_fnCall c s
    cases hr.symm.trans hc
    exact h.answer r
  cases i with
  | aScan => exact h.of_execAScan he
  | aCollect => exact h.of_execACollect he
  | aDecode => exact h.of_execADecode he
  | aDispatch r => exact h.of_execADispatch he
  | aDiscard => exact h.of_execADiscard he
  | hexenc b => exact fn (.hexenc b) he
  | hexdec h l => exact fn (.hexdec h l) he
  | checksum c n a => exact fn (.checksum c n a) he
  | encode f => exact fn (.encode f) he
  | decode span => exact fn (.decode span) he
  | validate f => exact fn (.validate f) he
  | sendFrame c n a => exact h.of_execSendFrame he
  | sendBuffer m last => exact h.of_execSendBuffer he
  | tick => exact h.of_execTick he
  | reset => exact h.of_execReset he
  | ingest b => cases he; exact h.receive b
  | frame c n a k => cases he; exact (h.feed _).answer _
  | digit _ | start | stop | upper _ | lower _ | other _ => cases he; exact h.receiveRead _

/-! ### Every step completes (R219) -/

/-- Where every operation completes and keeps what makes it complete, a step completes. -/
theorem step_next {P : State → Prop} (hscript : ∀ s rs, P s → P (s.setScript rs))
    (hpulse : ∀ s ev tx, P s → P { s with ev := ev, txNow := tx })
    (hexec : ∀ i s t, P s → exec i s = .next t → P t) (hnext : ∀ i s, P s → ∃ t, exec i s = .next t)
    (hs : P s) : ∃ t, step s = .next t := by
  unfold step
  split
  · exact ⟨s, rfl⟩
  · exact runSample_next hpulse hexec hnext _ (hpulse _ _ _ (hscript s _ hs))
  · split
    · exact hnext _ _ (hscript s _ hs)
    · exact ⟨_, rfl⟩

/-- Settles O44: the invariant makes every operation complete, and every operation, the earlier ones of a clocked
sample among them, keeps it. -/
theorem noFatalPath : Obligations.NoFatalPath := fun _ h =>
  step_next (fun _ _ hs => hs.congr rfl rfl rfl rfl rfl rfl rfl) (fun _ _ _ hs => hs.congr rfl rfl rfl rfl rfl rfl rfl)
    (fun _ _ _ hs he => hs.of_exec he) (fun i _ hs => hs.exec_next i) h

end Sys2Proof.Machine
end

section
/-! PROOFS. What every step keeps: the machine's invariant (R26 to R29, R144), the canonical form of the memory (R24)
and what stands in the traces (R34). The reset state (R37), the ports (R35, R87) and the encodings written out from the
spec (R82, R87, R27). -/

namespace Sys2Proof.Machine

variable {s t : State}

/-! ### The machine's invariant (R26 to R29, R144) -/

/-- Settles O42: after reset the buffer is empty and `asm_state` is Idle, where the invariant asks for no more. -/
theorem invariantHoldsAtReset : Obligations.InvariantHoldsAtReset :=
  .of_scanning_or_idle (bufferOk_resetBuf State.reset) (.inr rfl) fun _ hf => absurd hf List.not_mem_nil

/-- Settles O43: every operation keeps the invariant, which does not speak of the script, the pulses or the sink. -/
theorem stepKeepsInvariant : Obligations.StepKeepsInvariant := fun _ _ =>
  step_induction (fun _ _ hs => hs.congr rfl rfl rfl rfl rfl rfl rfl)
    (fun _ _ _ hs => hs.congr rfl rfl rfl rfl rfl rfl rfl) fun _ _ _ hs => hs.of_exec

/-! ### What the writes of the cells and of the traces keep

`append`, `dropFront` and `resetBuf` write the cells (R53 to R55), `raise`, `emitTx` and `emitDispatch` the traces
(R10), and no operation writes either in another way. -/

/-- The property speaks of the cells and the three traces only, and each write of one of them keeps it. -/
structure KeptByWrites (P : State → Prop) : Prop where
  congr : ∀ {s t}, P s → t.mem = s.mem → t.txStream = s.txStream → t.dispTrace = s.dispTrace →
    t.evTrace = s.evTrace → P t
  append : ∀ {s} b, P s → P (s.append b)
  dropFront : ∀ {s} k, P s → P (s.dropFront k)
  resetBuf : ∀ {s}, P s → P s.resetBuf
  raise : ∀ {s} e info, P s → P (s.raise e info)
  emitTx : ∀ {s} w, P s → P (s.emitTx w)
  emitDispatch : ∀ {s} f, P s → P (s.emitDispatch f)

namespace KeptByWrites

variable {P : State → Prop} (hP : KeptByWrites P)
include hP

theorem newTransaction (hs : P s) : P s.newTransaction := hP.congr hs rfl rfl rfl rfl

theorem receive (b : Byte) (hs : P s) : P (s.receive b) := by
  unfold State.receive
  split
  · exact hP.append b (hP.newTransaction hs)
  · exact hP.raise _ _ (hP.newTransaction hs)

theorem answer (r : FnResult) (hs : P s) : P (s.answer r) := hP.congr hs rfl rfl rfl rfl

theorem receiveRead (b : Byte) (hs : P s) : P (s.receiveRead b) := hP.answer _ (hP.receive b hs)

theorem of_execFrame {c n k : HexPair} {a : List HexPair} (hs : P s) (he : execFrame c n a k s = .next t) : P t := by
  cases he
  exact hP.answer _ (State.feed_induction (fun _ b => hP.receive b) _ s hs)

theorem of_execAScan (hs : P s) (he : execAScan s = .next t) : P t := by
  rcases execAScan_cases he with ⟨-, rfl⟩ | ⟨-, _, k, -, -, -, ⟨-, rfl⟩ | ⟨-, rfl⟩⟩
  · exact hs
  all_goals exact hP.congr (hP.dropFront k (hP.newTransaction hs)) rfl rfl rfl rfl

theorem of_execACollect (hs : P s) (he : execACollect s = .next t) : P t := by
  rcases execACollect_cases he with ⟨-, rfl⟩ | ⟨-, _, -, ⟨_, -, rfl⟩ | ⟨-, -, rfl⟩ | ⟨-, -, rfl⟩⟩
  · exact hs
  · exact hP.congr hs rfl rfl rfl rfl
  · exact hP.congr (hP.raise _ _ (hP.resetBuf (hP.newTransaction hs))) rfl rfl rfl rfl
  · exact hP.congr hs rfl rfl rfl rfl

theorem of_execADecode (hs : P s) (he : execADecode s = .next t) : P t := by
  rcases execADecode_cases he with ⟨-, rfl⟩ | ⟨-, _, -, ⟨-, rfl⟩ | ⟨_, -, -, rfl⟩ | ⟨_, -, -, rfl⟩⟩
  · exact hs
  all_goals exact hP.congr hs rfl rfl rfl rfl

theorem of_execADispatch {r : Bool} (hs : P s) (he : execADispatch r s = .next t) : P t := by
  rcases execADispatch_cases he with ⟨-, rfl⟩ | ⟨-, -, -, rfl⟩
  · exact hs
  · exact hP.congr (hP.dropFront _ (hP.emitDispatch _ (hP.newTransaction hs))) rfl rfl rfl rfl

theorem of_execADiscard (hs : P s) (he : execADiscard s = .next t) : P t := by
  rcases execADiscard_cases he with ⟨-, rfl⟩ | ⟨-, -, rfl⟩
  · exact hs
  · exact hP.congr (hP.dropFront _ (hP.raise _ _ (hP.newTransaction hs))) rfl rfl rfl rfl

theorem of_execSendFrame {c : Byte} {n : ArgCount} {a : ArgPort} (hs : P s)
    (he : execSendFrame c n a s = .next t) : P t := by
  rcases execSendFrame_cases he with ⟨-, rfl⟩ | ⟨-, -, rfl⟩ | ⟨-, -, w, -, rfl⟩
  · exact hP.congr hs rfl rfl rfl rfl
  · exact hP.raise _ _ (hP.newTransaction hs)
  · exact hP.emitTx w (hP.congr hs rfl rfl rfl rfl)

theorem of_execSendBuffer {m : List Byte} {last : Bool} (hs : P s) (he : execSendBuffer m last s = .next t) : P t := by
  rcases execSendBuffer_cases he with ⟨-, rfl⟩ | ⟨-, rfl⟩
  · exact hs
  · exact hP.congr (hP.emitTx m (hP.newTransaction hs)) rfl rfl rfl rfl

theorem of_execTick (hs : P s) (he : execTick s = .next t) : P t := by
  rcases execTick_cases he with ⟨-, rfl⟩ | ⟨-, rfl⟩
  · exact hP.congr hs rfl rfl rfl rfl
  · exact hs

theorem of_execReset (hs : P s) (he : execReset s = .next t) : P t := by
  cases he
  exact hP.congr (hP.resetBuf hs) rfl rfl rfl rfl

theorem of_fnCall (c : FnCall) (hs : P s) (he : exec c.instr s = .next t) : P t := by
  obtain ⟨r, hr⟩ := exec_fnCall c s
  cases hr.symm.trans he
  exact hP.answer r hs

/-- What the writes keep, every operation keeps. -/
theorem of_exec {i : Instr} (hs : P s) (he : exec i s = .next t) : P t := by
  cases i with
  | aScan => exact hP.of_execAScan hs he
  | aCollect => exact hP.of_execACollect hs he
  | aDecode => exact hP.of_execADecode hs he
  | aDispatch r => exact hP.of_execADispatch hs he
  | aDiscard => exact hP.of_execADiscard hs he
  | hexenc b => exact hP.of_fnCall (.hexenc b) hs he
  | hexdec h l => exact hP.of_fnCall (.hexdec h l) hs he
  | checksum c n a => exact hP.of_fnCall (.checksum c n a) hs he
  | encode f => exact hP.of_fnCall (.encode f) hs he
  | decode span => exact hP.of_fnCall (.decode span) hs he
  | validate f => exact hP.of_fnCall (.validate f) hs he
  | sendFrame c n a => exact hP.of_execSendFrame hs he
  | sendBuffer m last => exact hP.of_execSendBuffer hs he
  | tick => exact hP.of_execTick hs he
  | reset => exact hP.of_execReset hs he
  | frame c n a k => exact hP.of_execFrame hs he
  | ingest b => cases he; exact hP.receive b hs
  | digit _ | start | stop | upper _ | lower _ | other _ => cases he; exact hP.receiveRead _ hs

/-- What the writes keep, every step keeps. -/
theorem of_step (hs : P s) (h : step s = .next t) : P t :=
  step_induction (fun _ _ hu => hP.congr hu rfl rfl rfl rfl) (fun _ _ _ hu => hP.congr hu rfl rfl rfl rfl)
    (fun _ _ _ => hP.of_exec) hs h

end KeptByWrites

/-! ### The canonical form of the memory (R24, R52) -/

theorem keptByWrites_memWf : KeptByWrites fun s => s.mem.Wf where
  congr hs hm _ _ _ := hm ▸ hs
  append b hs := Memory.wf_write _ _ b hs
  dropFront k hs := Memory.wf_shift _ k _ hs
  resetBuf _ := Memory.wf_nil
  raise _ _ hs := hs
  emitTx _ hs := hs
  emitDispatch _ hs := hs

/-- Settles O45: a write of a cell, a shift and an empty buffer are canonical, and nothing else writes the cells. -/
theorem stepKeepsMemoryCanonical : Obligations.StepKeepsMemoryCanonical := fun _ _ => keptByWrites_memWf.of_step

/-! ### The traces (R34) -/

/-- Each trace of the first state begins that of the second. -/
def TracesExtend (s t : State) : Prop :=
  s.txStream <+: t.txStream ∧ s.dispTrace <+: t.dispTrace ∧ s.evTrace <+: t.evTrace

theorem TracesExtend.refl (s : State) : TracesExtend s s := ⟨List.prefix_rfl, List.prefix_rfl, List.prefix_rfl⟩

theorem keptByWrites_tracesExtend (s₀ : State) : KeptByWrites (TracesExtend s₀) where
  congr hs _ htx hdisp hev := by rwa [TracesExtend, htx, hdisp, hev]
  append _ hs := hs
  dropFront _ hs := hs
  resetBuf hs := hs
  raise _ _ := fun ⟨htx, hdisp, hev⟩ => ⟨htx, hdisp, hev.trans (List.prefix_append _ _)⟩
  emitTx _ := fun ⟨htx, hdisp, hev⟩ => ⟨htx.trans (List.prefix_append _ _), hdisp, hev⟩
  emitDispatch _ := fun ⟨htx, hdisp, hev⟩ => ⟨htx, hdisp.trans (List.prefix_append _ _), hev⟩

/-- Settles O40: the traces are written at their end only, in every operation of the step. -/
theorem tracesOnlyGrow : Obligations.TracesOnlyGrow := fun s _ => (keptByWrites_tracesExtend s).of_step (.refl s)

/-! ### The dispatch port (R35) -/

/-- The packed bytes, bit by bit: the first byte at bits 7 to 0, the others above it. -/
theorem getLsbD_packArgs_cons (b : Byte) (l : List Byte) (j : Nat) (hj : j < 256) :
    (packArgs (b :: l)).getLsbD j = if j < 8 then b.getLsbD j else (packArgs l).getLsbD (j - 8) := by
  rw [packArgs, BitVec.getLsbD_or, BitVec.getLsbD_setWidth, BitVec.getLsbD_shiftLeft]
  by_cases h : j < 8
  · simp [h, hj]
  · simp [h, hj, BitVec.getLsbD_of_ge b j (by omega)]

/-- Byte i of a packed port is byte i of the list packed, where the port's 256 bits have it. -/
theorem argByte_packArgs (l : List Byte) : ∀ i, i < 32 → argByte (packArgs l) i = l.getD i 0 := by
  induction l with
  | nil => intro i _; simp [argByte, packArgs]
  | cons b l ih =>
    intro i hi
    ext j hj
    rw [← BitVec.getLsbD_eq_getElem, ← BitVec.getLsbD_eq_getElem, argByte, BitVec.getLsbD_extractLsb',
      getLsbD_packArgs_cons b l _ (by omega)]
    cases i with
    | zero => simp [hj]
    | succ i =>
      have hih := congrArg (·.getLsbD j) (ih i (by omega))
      simp only [argByte, BitVec.getLsbD_extractLsb'] at hih
      rw [if_neg (by omega), List.getD_cons_succ, ← hih]
      congr 2; omega

/-- Byte i of `disp_args` is what the port shows there (R35). -/
theorem State.argByte_outputs_dispArgs (s : State) (rst v : Bool) {i : Nat} (hi : i < 32) :
    argByte (s.outputs rst v).dispArgs i = s.dispArgByte i := by
  rw [State.outputs, argByte_packArgs _ i hi]
  simp [hi]

/-- Below `arg_count` the port shows RXF's arguments (R144). -/
theorem State.dispArgByte_eq_arg (hv : ValidFrame s.rxf) {i : Nat} (hi : i < s.rxf.argCount.toNat) :
    some (s.dispArgByte i) = s.rxf.args[i]? := by
  obtain ⟨-, hlen, -⟩ := hv
  have hlt : i < s.rxf.args.length := hlen ▸ hi
  simp [State.dispArgByte, hi, hlt]

/-- Settles O27: in Dispatch RXF is valid, so each of its arguments has its own byte of the port's 32. -/
theorem dispatchPortShowsTheFrame : Obligations.DispatchPortShowsTheFrame := by
  intro s h ha
  have hv : ValidFrame s.rxf := (h.dispatch ha).1
  refine ⟨rfl, rfl, rfl, fun i hi => ?_⟩
  rw [s.argByte_outputs_dispArgs _ _ (hi.trans_le hv.1), State.dispArgByte_eq_arg hv hi]

/-! ### The ports in a clocked sample (R35, R87) -/

/-- The driver agent moves only while busy (R27). -/
theorem State.busy_of_driverMoves {r : Bool} (h : s.driverMoves r = true) (rst v : Bool) :
    (s.outputs rst v).busy = true := by
  cases ha : s.asm <;> simp_all [State.driverMoves, State.outputs]

/-- In Dispatch the driver agent waits for `disp_ready` (R144). -/
theorem State.driverMoves_of_dispatch (h : s.asm = .dispatch) (r : Bool) : s.driverMoves r = r := by
  simp [State.driverMoves, h]

theorem mem_driverRequests {p : Pins} {r : Request} :
    r ∈ driverRequests p s ↔ (s.driverMoves p.dispReady = true ∧ r = .driver p.dispReady) ∨
      (p.tick = true ∧ (s.outputsAt p).busy = false ∧ r = .tick) := by
  unfold driverRequests
  split
  · rename_i hm
    have hb : (s.outputsAt p).busy = true := State.busy_of_driverMoves hm _ _
    simp [hm, hb]
  · rename_i hm
    simp [hm, and_assoc]

theorem mem_ingestRequests {p : Pins} {r : Request} :
    r ∈ ingestRequests p ↔ p.rxValid = true ∧ r = .rx p.rxData := by
  simp [ingestRequests]

theorem mem_transmitRequests {p : Pins} {r : Request} :
    r ∈ transmitRequests p s ↔
      (p.txfValid = true ∧ (s.outputsAt p).txfReady = true ∧ r = .txf p.txfCommand p.txfArgCount p.txfArgs) ∨
      (p.txrValid = true ∧ (s.outputsAt p).txrReady = true ∧ r = .txr [p.txrData] p.txrLast) := by
  simp [transmitRequests, and_assoc]

/-- The transactions of a sample without reset: those of the driver, of the ingest agent and of the transmit path. -/
theorem mem_pinRequests {p : Pins} (hp : p.rst = false) {r : Request} :
    r ∈ pinRequests p s ↔ r ∈ driverRequests p s ∨ r ∈ ingestRequests p ∨ r ∈ transmitRequests p s := by
  simp [pinRequests, hp]

/-- While `txf_valid` = 1 at most one of the two ready outputs is 1 (R172). -/
theorem State.txrReady_eq_false_of_txfReady {rst : Bool} (h : (s.outputs rst true).txfReady = true) :
    (s.outputs rst true).txrReady = false := by
  simp_all [State.outputs]

/-- Settles O37, a clause for each port from the transactions of each agent. -/
theorem portTransactionsFollowValidAndReady : Obligations.PortTransactionsFollowValidAndReady := by
  intro p s hp
  have hout : s.outputsAt p = s.outputs false p.txfValid := by rw [State.outputsAt, hp]
  simp only [mem_pinRequests hp, mem_driverRequests, mem_ingestRequests, mem_transmitRequests, hout]
  refine ⟨by simp, by simp, by simp, fun ha => ?_, by simp, by simp, by simp, by simp, ?_⟩
  · simp [State.driverMoves_of_dispatch ha, State.outputs, ha]
  · rintro ⟨hr, hv, hf⟩
    rw [hv] at hr hf
    simp [State.txrReady_eq_false_of_txfReady hf] at hr

/-! ### Reset (R37) and the encodings of the spec (R82, R87, R27) -/

/-- Settles O1: no index is below `rx_len` = 0, so no read has a value; every other value is a field of the state or an
output of it. -/
theorem resetStateHasSpecifiedValues : Obligations.ResetStateHasSpecifiedValues :=
  ⟨rfl, rfl, fun i => State.memRead_none _ i.zero_le, rfl, rfl, Memory.wf_nil, rfl, rfl, rfl, rfl, rfl⟩

/-- Settles O48: the decoder runs on each word. -/
theorem specWordsDecode : Obligations.SpecWordsDecode := by
  unfold Obligations.SpecWordsDecode
  decide

end Sys2Proof.Machine
end

section
/-! PROOFS. A step runs the operation the next request selects (R61, R87), and a clocked sample runs its transactions
in the order of the agents (R64, R172). -/

namespace Sys2Proof.Machine

variable {s t : State}

/-! ### A step that selects an operation (R61, R87) -/

theorem step_of_decode_ok {r : Request} {rest : List Request} {i : Instr} {left : Option Request}
    (hd : decode s.asm r = .ok (i, left)) (h : s.script = r :: rest) :
    step s = exec i (s.setScript (remaining left rest)) := by
  unfold step
  split
  · rename_i hs; cases h.symm.trans hs
  · rename_i p rs hs
    cases h.symm.trans hs
    cases hd
  · rename_i r' rs _ hs
    cases h.symm.trans hs
    rw [hd]

/-- Settles O46: `step` of a request that decodes, whether or not something of the request is left. -/
theorem stepRunsDecodedOperation : Obligations.StepRunsDecodedOperation := by
  intro s r rest i left hs hd
  rw [step_of_decode_ok hd hs]
  cases left with
  | none => rfl
  | some r' => rfl

/-! ### The transactions of a clocked sample, agent by agent (R35, R64) -/

/-- While `asm_state` is `a`, one agent's requests in a sample ask for this operation: there is one request, and it
decodes to it, or there is none. -/
def AskFor (a : AsmState) (requests : List Request) (o : Option Instr) : Prop :=
  match o with
  | none => requests = []
  | some i => ∃ r, requests = [r] ∧ decode a r = .ok (i, none)

/-- The part of a sample that is one agent's leads where the operation asked for leads (R216 (c)). -/
theorem runSample_of_askFor {requests : List Request} {o : Option Instr} (hr : AskFor s.asm requests o)
    (h : Took o s t) : runSample requests s = .next t := by
  cases o with
  | none =>
    obtain rfl : requests = [] := hr
    obtain rfl : t = s := h
    exact runSample_nil t
  | some i =>
    obtain ⟨r, rfl, hd⟩ := hr
    obtain ⟨u, he, rfl⟩ := h
    exact runSample_cons_ok hd he

theorem driverRequests_of_driverMoves {p : Pins} (h : s.driverMoves p.dispReady = true) :
    driverRequests p s = [.driver p.dispReady] := if_pos h

/-- In Idle the driver agent can only start a tick (R191). -/
theorem driverRequests_of_idle {p : Pins} (h : s.asm = .idle) :
    driverRequests p s = if p.tick then [.tick] else [] := by
  simp [driverRequests, State.driverMoves, State.outputsAt, State.outputs, h]

/-- In Dispatch the driver agent waits for `disp_ready`, and a tick is ignored (R144, R193). -/
theorem driverRequests_of_dispatch {p : Pins} (h : s.asm = .dispatch) :
    driverRequests p s = if p.dispReady then [.driver p.dispReady] else [] := by
  simp [driverRequests, State.driverMoves, State.outputsAt, State.outputs, h]

theorem askFor_driverRequests (p : Pins) (s : State) : AskFor s.asm (driverRequests p s)
    (if s.asm = .idle then (if p.tick then some .tick else none)
      else if s.asm = .dispatch ∧ p.dispReady = false then none else microOp s.asm p.dispReady) := by
  cases ha : s.asm with
  | idle =>
    rw [driverRequests_of_idle ha]
    cases p.tick with
    | false => rfl
    | true => exact ⟨_, rfl, rfl⟩
  | dispatch =>
    rw [driverRequests_of_dispatch ha]
    cases p.dispReady with
    | false => rfl
    | true => exact ⟨_, rfl, rfl⟩
  | scanning | collecting | decoding | discard =>
    exact ⟨_, driverRequests_of_driverMoves (by simp [State.driverMoves, ha]), rfl⟩

theorem askFor_ingestRequests (a : AsmState) (p : Pins) :
    AskFor a (ingestRequests p) (if p.rxValid then some (.ingest p.rxData) else none) := by
  unfold ingestRequests
  cases p.rxValid with
  | false => rfl
  | true => exact ⟨_, rfl, rfl⟩

/-- A frame goes before a raw byte, unless a raw message is open (R172). -/
theorem transmitRequests_of_not_rst {p : Pins} (hp : p.rst = false) (s : State) :
    transmitRequests p s =
      if p.txfValid = true ∧ s.rawOpen = false then [.txf p.txfCommand p.txfArgCount p.txfArgs]
      else if p.txrValid then [.txr [p.txrData] p.txrLast] else [] := by
  by_cases hf : p.txfValid = true ∧ s.rawOpen = false
  · simp [transmitRequests, State.outputsAt, State.outputs, hp, hf]
  · have hready : (p.txfValid && !s.rawOpen) = false := by simpa using hf
    simp [transmitRequests, State.outputsAt, State.outputs, hp, hf, hready]

theorem askFor_transmitRequests (a : AsmState) {p : Pins} (hp : p.rst = false) (s : State) :
    AskFor a (transmitRequests p s)
      (if p.txfValid = true ∧ s.rawOpen = false then some (.sendFrame p.txfCommand p.txfArgCount p.txfArgs)
        else if p.txrValid then some (.sendBuffer [p.txrData] p.txrLast) else none) := by
  rw [transmitRequests_of_not_rst hp]
  split
  · exact ⟨_, rfl, rfl⟩
  · split
    · exact ⟨_, rfl, rfl⟩
    · rfl

theorem pinRequests_of_not_rst {p : Pins} (hp : p.rst = false) (s : State) :
    pinRequests p s = driverRequests p s ++ ingestRequests p ++ transmitRequests p s := by
  simp [pinRequests, hp]

/-- Settles O38: the sample is the driver's part, then the ingest agent's, then the transmit path's, and each leads
where the operation it asks for leads. What each asks for is read off the state before the sample. -/
theorem sameCycleDriverBeforeIngest : Obligations.SameCycleDriverBeforeIngest := by
  intro s u v w p rest hs hp hu hv hw
  have hdriver : runSample (driverRequests p s) (s.setScript rest).newTransaction = .next u :=
    runSample_of_askFor (askFor_driverRequests p s) hu
  have hingest : runSample (ingestRequests p) u = .next v := runSample_of_askFor (askFor_ingestRequests _ p) hv
  have htransmit : runSample (transmitRequests p s) v = .next w :=
    runSample_of_askFor (askFor_transmitRequests _ hp s) hw
  calc step s
      = runSample (pinRequests p s) (s.setScript rest).newTransaction := by
        rw [step_of_cycle hs, State.sample, pinRequests_setScript]
    _ = runSample (transmitRequests p s) v := by
        rw [pinRequests_of_not_rst hp, runSample_append ((runSample_append hdriver).trans hingest)]
    _ = .next w := htransmit

end Sys2Proof.Machine
end

section
/-! PROOFS. The wire (R80, R82, R93): encoding and decoding are each other's inverse, shown for the byte rows, for a
hex digit, a run of digits, a run of pairs, a span and the wire frame in turn. A reading function answers a value
exactly where the value is well-formed and the bytes read are those that write it. -/

namespace Sys2Proof

/-! ### The byte classes and the byte rows (R82) -/

theorem classify_eq_digit_iff : ∀ b : Byte, classify b = .digit ↔ 0x30 ≤ b.toNat ∧ b.toNat ≤ 0x39 := by
  set_option maxRecDepth 100000 in decide

theorem classify_eq_start_iff : ∀ b : Byte, classify b = .start ↔ b = 0x3C := by
  set_option maxRecDepth 100000 in decide

theorem classify_eq_stop_iff : ∀ b : Byte, classify b = .stop ↔ b = 0x3E := by
  set_option maxRecDepth 100000 in decide

theorem classify_eq_upper_iff : ∀ b : Byte, classify b = .upper ↔ 0x41 ≤ b.toNat ∧ b.toNat ≤ 0x46 := by
  set_option maxRecDepth 100000 in decide

theorem classify_eq_lower_iff : ∀ b : Byte, classify b = .lower ↔ 0x61 ≤ b.toNat ∧ b.toNat ≤ 0x66 := by
  set_option maxRecDepth 100000 in decide

theorem classify_eq_other_iff : ∀ b : Byte, classify b = .other ↔ isOtherByte b = true := by
  set_option maxRecDepth 100000 in decide

theorem classHexValue_of_not_hex {b : Byte} (h : classify b = .start ∨ classify b = .stop ∨ classify b = .other) :
    classHexValue b = none := by
  rcases h with h | h | h <;> rw [classHexValue, h]

/-- Of every byte, the row it is read as is well-formed and encodes to it. -/
theorem decodeByte_spec : ∀ b : Byte, WellFormed (decodeByte b) ∧ encode (decodeByte b) = .wire [b] := by
  set_option maxRecDepth 100000 in decide

theorem decodeByte_digit : ∀ v : Nibble, v.toNat ≤ 9 → decodeByte (0x30 ||| v.setWidth 8) = .digit v := by decide

theorem decodeByte_upper : ∀ v : BitVec 3, 1 ≤ v.toNat ∧ v.toNat ≤ 6 →
    decodeByte (0x40 ||| v.setWidth 8) = .upper v := by decide

theorem decodeByte_lower : ∀ v : BitVec 3, 1 ≤ v.toNat ∧ v.toNat ≤ 6 →
    decodeByte (0x60 ||| v.setWidth 8) = .lower v := by decide

theorem decodeByte_other {b : Byte} (h : isOtherByte b = true) : decodeByte b = .other b := by
  rw [decodeByte, (classify_eq_other_iff b).mpr h]

/-! ### Hex digits and hex pairs (R82, R83) -/

/-- A byte is read as a hex digit with the case it is written in. -/
theorem HexDigit.of_ofByte : ∀ b : Byte, ∀ d ∈ HexDigit.ofByte b, d.wellFormed = true ∧ d.toByte = b := by
  set_option maxRecDepth 100000 in decide

theorem HexDigit.ofByte_toByte (d : HexDigit) (h : d.wellFormed = true) : HexDigit.ofByte d.toByte = some d := by
  obtain ⟨v, small⟩ := d
  revert v small
  decide

theorem HexDigit.ofByte_eq_some_iff {b : Byte} {d : HexDigit} :
    HexDigit.ofByte b = some d ↔ d.wellFormed = true ∧ d.toByte = b :=
  ⟨HexDigit.of_ofByte b d, fun ⟨hw, hb⟩ => hb ▸ d.ofByte_toByte hw⟩

/-- No digit is written as the byte `>`, so the markers stay recognisable (R82). -/
theorem HexDigit.toByte_ne_stop (d : HexDigit) : d.toByte ≠ Config.stop := by
  obtain ⟨v, small⟩ := d
  revert v small
  decide

theorem hexDigits_eq_some_iff {bytes : List Byte} : ∀ {ds : List HexDigit},
    hexDigits bytes = some ds ↔ (∀ d ∈ ds, d.wellFormed = true) ∧ bytes = ds.map HexDigit.toByte := by
  induction bytes with
  | nil => intro ds; cases ds <;> simp [hexDigits]
  | cons b t ih =>
    intro ds
    cases ds with
    | nil => rw [hexDigits]; split <;> simp
    | cons d ds =>
      calc hexDigits (b :: t) = some (d :: ds)
          ↔ HexDigit.ofByte b = some d ∧ hexDigits t = some ds := by
            rw [hexDigits]; cases HexDigit.ofByte b <;> cases hexDigits t <;> simp
        _ ↔ (∀ x ∈ d :: ds, x.wellFormed = true) ∧ b :: t = (d :: ds).map HexDigit.toByte := by
            rw [HexDigit.ofByte_eq_some_iff, ih]; simp; tauto

/-- The two digits of a pair, in the order they are written. -/
def HexPair.digits (p : HexPair) : List HexDigit := [p.first, p.second]

theorem HexPair.wellFormed_iff_digits (p : HexPair) :
    p.wellFormed = true ↔ ∀ d ∈ p.digits, d.wellFormed = true := by
  simp [HexPair.wellFormed, HexPair.digits]

theorem hexPairs_eq_some_iff {ds : List HexDigit} : ∀ {ps : List HexPair},
    hexPairs ds = some ps ↔ ds = ps.flatMap HexPair.digits := by
  induction ds using hexPairs.induct with
  | case1 => intro ps; cases ps <;> simp [hexPairs, HexPair.digits]
  | case2 d => intro ps; cases ps <;> simp [hexPairs, HexPair.digits]
  | case3 h l t qs hqs ih =>
    intro ps
    cases ps with
    | nil => simp [hexPairs, hqs]
    | cons p ps =>
      obtain ⟨f, s⟩ := p
      simp [hexPairs, hqs, HexPair.digits, ← ih, and_assoc]
  | case4 h l t hnone ih =>
    intro ps
    cases ps with
    | nil => simp [hexPairs, hnone]
    | cons p ps => simp [hexPairs, hnone, HexPair.digits, ← ih]

/-! ### The span of a wire frame (R80, R86) -/

/-- A span is read as the pairs that are written in it. -/
theorem hexPairs_of_span_iff {span : List Byte} {ps : List HexPair} :
    (∃ ds, hexDigits span = some ds ∧ hexPairs ds = some ps) ↔
      (∀ p ∈ ps, p.wellFormed = true) ∧ span = ps.flatMap HexPair.bytes := by
  have hbytes : ps.flatMap HexPair.bytes = (ps.flatMap HexPair.digits).map HexDigit.toByte := by
    rw [List.map_flatMap]; rfl
  simp only [hexDigits_eq_some_iff, hexPairs_eq_some_iff, hbytes, HexPair.wellFormed_iff_digits]
  constructor
  · rintro ⟨ds, ⟨hw, rfl⟩, rfl⟩
    exact ⟨fun p hp d hd => hw d (List.mem_flatMap.mpr ⟨p, hp, hd⟩), rfl⟩
  · rintro ⟨hw, rfl⟩
    refine ⟨_, ⟨fun d hd => ?_, rfl⟩, rfl⟩
    obtain ⟨p, hp, hd⟩ := List.mem_flatMap.mp hd
    exact hw p hp d hd

/-- The pairs of a wire frame in the order of its fields (R80). -/
def framePairs (c n : HexPair) (a : List HexPair) (k : HexPair) : List HexPair := c :: n :: (a ++ [k])

theorem wireOfPairs_eq (c n : HexPair) (a : List HexPair) (k : HexPair) :
    wireOfPairs c n a k = Config.start :: ((framePairs c n a k).flatMap HexPair.bytes ++ [Config.stop]) := rfl

theorem wellFormed_frame_iff {c n : HexPair} {a : List HexPair} {k : HexPair} :
    WellFormed (.frame c n a k) ↔ (∀ p ∈ framePairs c n a k, p.wellFormed = true) ∧
      n.value.toNat ≤ Config.maxArgs ∧ a.length = n.value.toNat := by
  simp only [WellFormed, Instr.wellFormed, framePairs, Bool.and_eq_true, List.all_eq_true, decide_eq_true_eq,
    beq_iff_eq, List.mem_cons, List.mem_append, List.not_mem_nil, or_false, or_imp, forall_and,
    forall_eq]
  tauto

theorem parseSpan_of_pairs {span : List Byte} {ds : List HexDigit} {c n : HexPair} {a : List HexPair} {k : HexPair}
    (hd : hexDigits span = some ds) (hp : hexPairs ds = some (framePairs c n a k))
    (hmax : n.value.toNat ≤ Config.maxArgs) (hlen : a.length = n.value.toNat) :
    parseSpan span = .ok (.frame c n a k) := by
  simp [parseSpan, hd, hp, framePairs, ← hlen, Nat.not_lt.mpr (hlen ▸ hmax)]

theorem pairs_of_parseSpan {span : List Byte} {i : Instr} (h : parseSpan span = .ok i) :
    ∃ c n a k ds, i = .frame c n a k ∧ hexDigits span = some ds ∧ hexPairs ds = some (framePairs c n a k) ∧
      n.value.toNat ≤ Config.maxArgs ∧ a.length = n.value.toNat := by
  unfold parseSpan at h
  split at h
  · cases h
  · rename_i ds hds
    split at h
    · cases h
    · rename_i c n more hps
      split at h
      · cases h
      · rename_i hmax
        split at h
        · rename_i hlen
          split at h
          · rename_i k hk
            cases h
            have hmore : more.take n.value.toNat ++ [k] = more := by rw [← hk, List.take_append_drop]
            exact ⟨c, n, _, k, ds, rfl, hds, by rw [framePairs, hmore, hps], Nat.le_of_not_lt hmax, by simp; omega⟩
          · cases h
        · cases h
    · cases h

/-- A span is read as a wire frame exactly where the pairs of a well-formed one are written in it. -/
theorem parseSpan_eq_ok_iff {span : List Byte} {i : Instr} :
    parseSpan span = .ok i ↔ ∃ c n a k, i = .frame c n a k ∧ WellFormed (.frame c n a k) ∧
      span = (framePairs c n a k).flatMap HexPair.bytes := by
  constructor
  · intro h
    obtain ⟨c, n, a, k, ds, rfl, hds, hps, hmax, hlen⟩ := pairs_of_parseSpan h
    obtain ⟨hw, hspan⟩ := hexPairs_of_span_iff.mp ⟨ds, hds, hps⟩
    exact ⟨c, n, a, k, rfl, wellFormed_frame_iff.mpr ⟨hw, hmax, hlen⟩, hspan⟩
  · rintro ⟨c, n, a, k, rfl, hwf, hspan⟩
    obtain ⟨hw, hmax, hlen⟩ := wellFormed_frame_iff.mp hwf
    obtain ⟨ds, hds, hps⟩ := hexPairs_of_span_iff.mpr ⟨hw, hspan⟩
    exact parseSpan_of_pairs hds hps hmax hlen

/-! ### The wire frame between its markers (R80, R86) -/

/-- The bytes are cut at the first STOP. -/
theorem splitAtStop_append {span : List Byte} (rest : List Byte) (h : Config.stop ∉ span) :
    splitAtStop (span ++ Config.stop :: rest) = some (span, rest) := by
  induction span with
  | nil => simp [splitAtStop]
  | cons b span ih =>
    obtain ⟨hb, hspan⟩ := not_or.mp (mt List.mem_cons.mpr h)
    simp [splitAtStop, Ne.symm hb, ih hspan]

theorem append_of_splitAtStop {bytes rest : List Byte} : ∀ {span : List Byte},
    splitAtStop bytes = some (span, rest) → bytes = span ++ Config.stop :: rest := by
  induction bytes with
  | nil => intro span h; cases h
  | cons b t ih =>
    intro span h
    rw [splitAtStop] at h
    split at h
    · rename_i hb; cases h; rw [hb, List.nil_append]
    · split at h
      · rename_i hs; cases h; rw [ih hs, List.cons_append]
      · cases h

theorem stop_not_mem_bytes_of_pairs (ps : List HexPair) : Config.stop ∉ ps.flatMap HexPair.bytes := by
  simp [HexPair.bytes, (HexDigit.toByte_ne_stop _).symm]

theorem span_of_parseFrame {bytes rest : List Byte} {i : Instr} (h : parseFrame bytes = .ok (i, rest)) :
    ∃ span, bytes = Config.start :: (span ++ Config.stop :: rest) ∧ parseSpan span = .ok i := by
  cases bytes with
  | nil => cases h
  | cons b t =>
    rw [parseFrame] at h
    split at h
    · rename_i hb
      split at h
      · cases h
      · rename_i span _ hs
        split at h
        · rename_i hi; cases h; exact ⟨span, by rw [hb, append_of_splitAtStop hs], hi⟩
        · cases h
    · cases h

/-- The wire is read as a frame exactly where the encoding of a well-formed one stands first. -/
theorem parseFrame_eq_ok_iff {bytes rest : List Byte} {i : Instr} :
    parseFrame bytes = .ok (i, rest) ↔ ∃ c n a k, i = .frame c n a k ∧ WellFormed (.frame c n a k) ∧
      bytes = wireOfPairs c n a k ++ rest := by
  constructor
  · intro h
    obtain ⟨span, rfl, hi⟩ := span_of_parseFrame h
    obtain ⟨c, n, a, k, rfl, hwf, rfl⟩ := parseSpan_eq_ok_iff.mp hi
    exact ⟨c, n, a, k, rfl, hwf, by simp [wireOfPairs_eq]⟩
  · rintro ⟨c, n, a, k, rfl, hwf, rfl⟩
    have hi := parseSpan_eq_ok_iff.mpr ⟨c, n, a, k, rfl, hwf, rfl⟩
    simp [wireOfPairs_eq, parseFrame, splitAtStop_append rest (stop_not_mem_bytes_of_pairs _), hi]

/-! ### What stands first on the wire (R93) -/

theorem decodeWire_of_parseFrame_ok {bytes rest : List Byte} {i : Instr} (h : parseFrame bytes = .ok (i, rest)) :
    decodeWire bytes = some (i, rest) := by
  cases bytes with
  | nil => cases h
  | cons b t => rw [decodeWire, h]

theorem decodeWire_of_parseFrame_error {b : Byte} {t : List Byte} {e : FrameReject}
    (h : parseFrame (b :: t) = .error e) : decodeWire (b :: t) = some (decodeByte b, t) := by
  rw [decodeWire, h]

/-- A wire frame has more than one byte, so a single byte is read by its row. -/
theorem decodeWire_singleton (b : Byte) : decodeWire [b] = some (decodeByte b, []) := by
  rcases h : parseFrame [b] with e | ⟨i, rest⟩
  · exact decodeWire_of_parseFrame_error h
  · obtain ⟨c, n, a, k, -, -, hb⟩ := parseFrame_eq_ok_iff.mp h
    simp [wireOfPairs] at hb

theorem decodeWire_wireOfPairs {c n : HexPair} {a : List HexPair} {k : HexPair} (h : WellFormed (.frame c n a k)) :
    decodeWire (wireOfPairs c n a k) = some (.frame c n a k, []) :=
  decodeWire_of_parseFrame_ok (parseFrame_eq_ok_iff.mpr ⟨c, n, a, k, rfl, h, (List.append_nil _).symm⟩)

theorem decode_wire {asm : AsmState} {bytes : List Byte} {i : Instr} (h : decodeWire bytes = some (i, [])) :
    decode asm (.wire bytes) = .ok (i, none) := by
  rw [decode, h]

/-- A single byte on the wire selects the row the byte is read as. -/
theorem decode_wire_byte {asm : AsmState} {b : Byte} {i : Instr} (h : decodeByte b = i) :
    decode asm (.wire [b]) = .ok (i, none) :=
  decode_wire (h ▸ decodeWire_singleton b)

/-- Settles O49, a case for each row: a byte row by its byte, the frame row by its wire frame, every other operation by
the request it stands in. -/
theorem decodeOfEncodeIsTheOperation : Obligations.DecodeOfEncodeIsTheOperation := by
  intro i h
  cases i with
  | digit v => exact decode_wire_byte (decodeByte_digit v (by simpa [WellFormed, Instr.wellFormed] using h))
  | start => exact decode_wire_byte (by decide)
  | stop => exact decode_wire_byte (by decide)
  | upper v => exact decode_wire_byte (decodeByte_upper v (by simpa [WellFormed, Instr.wellFormed] using h))
  | lower v => exact decode_wire_byte (decodeByte_lower v (by simpa [WellFormed, Instr.wellFormed] using h))
  | other b => exact decode_wire_byte (decodeByte_other h)
  | frame c n a k => exact decode_wire (decodeWire_wireOfPairs h)
  | sendBuffer m last =>
    cases m with
    | nil => cases h
    | cons b m => rfl
  | hexenc _ | hexdec _ _ | checksum _ _ _ | encode _ | decode _ | validate _ => rfl
  | aScan | aCollect | aDecode | aDispatch _ | aDiscard | sendFrame _ _ _ | ingest _ | tick | reset => rfl

/-- Settles O50: either a frame stands first, and its encoding with it, or the first byte's row is read. -/
theorem wireDecodingReadsExactBytes : Obligations.WireDecodingReadsExactBytes := by
  intro bytes hne
  rcases h : parseFrame bytes with e | ⟨i, rest⟩
  · obtain ⟨b, t, rfl⟩ := List.exists_cons_of_ne_nil hne
    obtain ⟨hwf, henc⟩ := decodeByte_spec b
    exact ⟨decodeByte b, [b], t, decodeWire_of_parseFrame_error h, hwf, henc, rfl⟩
  · obtain ⟨c, n, a, k, rfl, hwf, hbytes⟩ := parseFrame_eq_ok_iff.mp h
    exact ⟨_, wireOfPairs c n a k, rest, decodeWire_of_parseFrame_ok h, hwf, rfl, hbytes⟩

end Sys2Proof
end

section
/-! PROOFS. What arrives at the rx port (R82, R190): the class of each byte, the byte rows as rx transactions, and the
frame row as a run of them that stands in the buffer field by field (R80). -/

namespace Sys2Proof.Machine

variable {s : State}

/-! ### The hex values (R82, R111) -/

/-- The value by the bits of the class's pattern is the value by ranges that R111 gives. -/
theorem hexVal_eq_classHexValue : ∀ b : Byte, hexVal b = classHexValue b := by
  set_option maxRecDepth 100000 in decide

/-- Settles O4: the ranges by the lemma of each class, the values by the branches of `hexval`. -/
theorem byteClassesByRange : Obligations.ByteClassesByRange := by
  intro b
  refine ⟨classify_eq_digit_iff b, classify_eq_start_iff b, classify_eq_stop_iff b, classify_eq_upper_iff b,
    classify_eq_lower_iff b, ?_, ?_, ?_, classHexValue_of_not_hex, hexVal_eq_classHexValue b⟩
  · rw [classify_eq_digit_iff, ← hexVal_eq_classHexValue]
    intro h; simp [hexVal, h]; omega
  · rw [classify_eq_upper_iff, ← hexVal_eq_classHexValue]
    intro h
    have : ¬ b.toNat ≤ 0x39 := by omega
    simp [hexVal, h, this]; omega
  · rw [classify_eq_lower_iff, ← hexVal_eq_classHexValue]
    intro h
    have h1 : ¬ b.toNat ≤ 0x39 := by omega
    have h2 : ¬ b.toNat ≤ 0x46 := by omega
    simp [hexVal, h, h1, h2]; omega

/-! ### The byte rows (R82) as rx transactions (R190) -/

/-- What an rx transaction makes of a state, below CAPACITY and at it. -/
theorem received_receive (s : State) (b : Byte) : Received s (s.receive b) b := by
  obtain ⟨hasm, hstop, herr, hrxf, htxf, hraw, htx, hdisp, -, hscript, hfree⟩ := s.receive_frame b
  have hnow : (s.receive b).txNow = [] := by unfold State.receive; split <;> rfl
  refine ⟨fun hlt => ?_, fun hge => ?_, hnow, ⟨hasm, hstop, herr, hrxf⟩, ⟨htxf, hraw, htx⟩, hdisp, hscript, hfree⟩
  · have hread (i : Nat) := State.memRead_append s.newTransaction b i hlt
    rw [State.receive_of_lt b hlt]
    refine ⟨rxLen_add_one hlt, by simp [hread], fun a ha => by simp [hread, ha], rfl, rfl⟩
  · rw [State.receive_of_ge b hge]
    exact ⟨rfl, fun _ => rfl, rfl, (by decide : (0 : BitVec 5) ||| ErrorName.rxDrop.pulse = 0b01000)⟩

/-- Every byte row is an rx transaction that answers the byte's class and value. -/
theorem receiveRead_spec (s : State) {b : Byte} {c : ByteClass} {v : Option Nibble} (hc : classify b = c)
    (hv : classHexValue b = v) :
    Received s (s.receiveRead b) b ∧ (s.receiveRead b).fnResult = some (.byteClass c v) :=
  ⟨received_receive s b, by rw [State.receiveRead, hc, hv]; rfl⟩

theorem digitByte_spec : ∀ v : Nibble, v.toNat ≤ 9 → (0x30 ||| v.setWidth 8 : Byte).toNat = 0x30 + v.toNat ∧
    classify (0x30 ||| v.setWidth 8) = .digit ∧ classHexValue (0x30 ||| v.setWidth 8) = some v := by decide

theorem upperByte_spec : ∀ v : BitVec 3, 1 ≤ v.toNat → v.toNat ≤ 6 →
    (0x40 ||| v.setWidth 8 : Byte).toNat = 0x40 + v.toNat ∧ (v.setWidth 4 + 9 : Nibble).toNat = v.toNat + 9 ∧
    classify (0x40 ||| v.setWidth 8) = .upper ∧ classHexValue (0x40 ||| v.setWidth 8) = some (v.setWidth 4 + 9) := by
  decide

theorem lowerByte_spec : ∀ v : BitVec 3, 1 ≤ v.toNat → v.toNat ≤ 6 →
    (0x60 ||| v.setWidth 8 : Byte).toNat = 0x60 + v.toNat ∧ (v.setWidth 4 + 9 : Nibble).toNat = v.toNat + 9 ∧
    classify (0x60 ||| v.setWidth 8) = .lower ∧ classHexValue (0x60 ||| v.setWidth 8) = some (v.setWidth 4 + 9) := by
  decide

/-- Settles O5: each row is the rx transaction of its byte, whose class and value are the row's. -/
theorem byteRowsStoreTheirByte : Obligations.ByteRowsStoreTheirByte := by
  intro s
  refine ⟨fun v h => ?_, ?_, ?_, fun v h1 h6 => ?_, fun v h1 h6 => ?_, fun b h => ?_⟩
  · obtain ⟨hb, hc, hv⟩ := digitByte_spec v h
    exact ⟨_, _, rfl, hb, receiveRead_spec s hc hv⟩
  · exact ⟨_, rfl, receiveRead_spec s (by decide) (by decide)⟩
  · exact ⟨_, rfl, receiveRead_spec s (by decide) (by decide)⟩
  · obtain ⟨hb, hh, hc, hv⟩ := upperByte_spec v h1 h6
    exact ⟨_, _, _, rfl, hb, hh, receiveRead_spec s hc hv⟩
  · obtain ⟨hb, hh, hc, hv⟩ := lowerByte_spec v h1 h6
    exact ⟨_, _, _, rfl, hb, hh, receiveRead_spec s hc hv⟩
  · have hc := (classify_eq_other_iff b).mpr h
    exact ⟨_, rfl, receiveRead_spec s hc (classHexValue_of_not_hex (.inr (.inr hc)))⟩

/-! ### The frame row as a run of rx transactions (R90) -/

/-- The states a run of rx transactions goes through are those of the fold that FEED is. -/
theorem State.getElem?_scanl_receive (s : State) {w : List Byte} {i : Nat} (h : i ≤ w.length) :
    (w.scanl State.receive s)[i]? = some (s.feed (w.take i)) := by
  rw [List.getElem?_scanl, if_pos h, State.feed]

theorem State.feed_take_succ (s : State) {w : List Byte} {i : Nat} {b : Byte} (h : w[i]? = some b) :
    s.feed (w.take (i + 1)) = (s.feed (w.take i)).receive b := by
  rw [List.take_add_one, h, State.feed_append, Option.toList_some, State.feed_cons, State.feed_nil]

theorem State.answer_with_fnResult (t : State) (r : FnResult) : { t.answer r with fnResult := t.fnResult } = t := rfl

theorem State.feed_fnResult (s : State) (w : List Byte) : (s.feed w).fnResult = s.fnResult := by
  simp [State.feed_frame]

theorem exec_frame (c n : HexPair) (a : List HexPair) (k : HexPair) (s : State) : exec (.frame c n a k) s =
    .next ((s.feed (wireOfPairs c n a k)).answer (.frame (frameOfPairs c n a k))) := rfl

/-- Settles O7: the chain is the list of the states that the run of rx transactions goes through. -/
theorem frameIsIngestOfEachByte : Obligations.FrameIsIngestOfEachByte := by
  intro c n a k s
  refine ⟨_, exec_frame c n a k s, ?_⟩
  generalize wireOfPairs c n a k = w
  refine ⟨w.scanl State.receive s, by simp, ?_, fun i b hb => ?_⟩
  · rw [s.getElem?_scanl_receive le_rfl, List.take_length, ← s.feed_fnResult w, State.answer_with_fnResult]
  · obtain ⟨hi, -⟩ := List.getElem?_eq_some_iff.mp hb
    refine ⟨_, _, s.getElem?_scanl_receive hi.le, s.getElem?_scanl_receive hi, ?_⟩
    rw [s.feed_take_succ hb]
    rfl

/-! ### The frame row's fields by position (R80) -/

theorem hexVal_toByte (d : HexDigit) : hexVal d.toByte = some d.value := by
  obtain ⟨v, small⟩ := d
  revert v small
  decide

theorem hexDec_pair (p : HexPair) : hexDec p.first.toByte p.second.toByte = some p.value := by
  simp [hexDec, hexVal_toByte, HexPair.value]

/-- A byte in front moves every position by one. -/
theorem hexDecAt_cons_succ (b : Byte) (l : List Byte) (i : Nat) : hexDecAt (b :: l) (i + 1) = hexDecAt l i :=
  hexDecAt_congr List.getElem?_cons_succ List.getElem?_cons_succ

/-- Pair i of a run of pairs is read at 2i; the byte behind the run makes no pair. -/
theorem hexDecAt_pairs (b : Byte) (ps : List HexPair) : ∀ i,
    hexDecAt (ps.flatMap HexPair.bytes ++ [b]) (2 * i) = ps[i]?.map HexPair.value := by
  induction ps with
  | nil => intro i; cases i <;> simp [hexDecAt]
  | cons p ps ih =>
    intro i
    cases i with
    | zero => exact hexDec_pair p
    | succ i =>
      rw [List.getElem?_cons_succ, ← ih i]
      exact (hexDecAt_cons_succ _ _ (2 * i + 1)).trans (hexDecAt_cons_succ _ _ (2 * i))

/-- Pair i of a wire frame is read at 1 + 2i. -/
theorem hexDecAt_wireOfPairs (c n : HexPair) (a : List HexPair) (k : HexPair) (i : Nat) :
    hexDecAt (wireOfPairs c n a k) (2 * i + 1) = (framePairs c n a k)[i]?.map HexPair.value := by
  rw [wireOfPairs_eq, hexDecAt_cons_succ, hexDecAt_pairs]

theorem length_bytes_of_pairs (ps : List HexPair) : (ps.flatMap HexPair.bytes).length = 2 * ps.length := by
  simp [HexPair.bytes, mul_comm]

theorem length_wireOfPairs (c n : HexPair) (a : List HexPair) (k : HexPair) :
    (wireOfPairs c n a k).length = 2 * (a.length + 3) + 2 := by
  rw [wireOfPairs_eq, List.length_cons, List.length_append, length_bytes_of_pairs, List.length_singleton]
  simp [framePairs]

theorem getElem?_wireOfPairs_stop (c n : HexPair) (a : List HexPair) (k : HexPair) :
    (wireOfPairs c n a k)[7 + 2 * a.length]? = some Config.stop := by
  rw [wireOfPairs_eq, show 7 + 2 * a.length = 2 * (framePairs c n a k).length + 1 by simp [framePairs]; omega,
    List.getElem?_cons_succ, ← length_bytes_of_pairs, List.getElem?_concat_length]

/-- A run of rx transactions with room for all ends with no line pulsing and no byte at the sink. -/
theorem State.Holds.feed_quiet {w buf : List Byte} (h : s.Holds buf) (hw : w ≠ [])
    (hl : buf.length + w.length ≤ Config.capacity) : (s.feed w).ev = 0 ∧ (s.feed w).txNow = [] := by
  rw [← List.dropLast_append_getLast hw] at hl ⊢
  simp only [List.length_append, List.length_singleton] at hl
  obtain ⟨hh, -⟩ := h.feed w.dropLast (by omega)
  have hlt : (s.feed w.dropLast).rxLen.toNat < Config.capacity := by
    rw [hh.1, List.length_append]; omega
  rw [State.feed_append, State.feed_cons, State.feed_nil, State.receive_of_lt _ hlt]
  exact ⟨rfl, rfl⟩

/-- What a run of rx transactions with room for all makes of a state, and what it leaves (R53, R62, R190). -/
theorem State.Holds.feed_answer {w buf : List Byte} (h : s.Holds buf) (hw : w ≠ [])
    (hl : buf.length + w.length ≤ Config.capacity) {t : State} {r : FnResult} (ht : t = (s.feed w).answer r) :
    t.Holds (buf ++ w) ∧ (∀ i, i < buf.length → t.memRead i = s.memRead i) ∧ t.ev = 0 ∧ t.txNow = [] ∧
      SameAssembler s t ∧ SameTransmit s t ∧ SameDispatchAndEvents s t ∧ SameHost s t := by
  subst ht
  obtain ⟨hholds, hevTrace⟩ := h.feed w hl
  obtain ⟨hev, htxNow⟩ := h.feed_quiet hw hl
  obtain ⟨hasm, hstop, herr, hrxf, htxf, hraw, htx, hdisp, -, hscript, hfree⟩ := s.feed_frame w
  refine ⟨hholds.congr rfl rfl, fun i hi => ?_, hev, htxNow, ⟨hasm, hstop, herr, hrxf⟩, ⟨htxf, hraw, htx⟩,
    ⟨hdisp, hevTrace⟩, hscript, hfree⟩
  rw [State.memRead_answer, hholds.2, h.2, List.getElem?_append_left hi]

/-- `arg_count`'s byte of a well-formed frame fits the register's 6 bits (R22). -/
theorem toNat_argCount_frameOfPairs {n : HexPair} (h : n.value.toNat ≤ Config.maxArgs) (c : HexPair)
    (a : List HexPair) (k : HexPair) : (frameOfPairs c n a k).argCount.toNat = n.value.toNat := by
  have h32 : n.value.toNat ≤ 32 := h
  simp [frameOfPairs]; omega

/-- Settles O6: the buffer by what a run of rx transactions with room appends, the fields by their pairs' positions. -/
theorem frameArrivesByPosition : Obligations.FrameArrivesByPosition := by
  intro c n a k s buf hwf hbuf hroom
  obtain ⟨-, hmax, hlen⟩ := wellFormed_frame_iff.mp hwf
  have hwlen := length_wireOfPairs c n a k
  have hpair := hexDecAt_wireOfPairs c n a k
  have hstop := getElem?_wireOfPairs_stop c n a k
  have hstart : (wireOfPairs c n a k)[0]? = some Config.start := rfl
  have hexec := exec_frame c n a k s
  have hne : wireOfPairs c n a k ≠ [] := List.cons_ne_nil _ _
  generalize wireOfPairs c n a k = w at hwlen hpair hstop hstart hexec hne
  rw [← hlen] at hroom ⊢
  obtain ⟨hholds, hread, hframe⟩ := hbuf.feed_answer hne (by rwa [hwlen]) rfl
  refine ⟨_, w, frameOfPairs c n a k, hexec, hholds, hwlen, hstart, hpair 0, hpair 1, fun i hi => ?_, ?_, ?_,
    rfl, rfl, ?_, rfl, rfl, hread, hframe⟩
  · rw [show 5 + 2 * i = 2 * (i + 2) + 1 by omega, hpair]
    simp [framePairs, List.getElem?_append_left hi]
  · rw [show 5 + 2 * a.length = 2 * (a.length + 2) + 1 by omega, hpair]
    simp [framePairs]
  · exact hstop
  · rw [toNat_argCount_frameOfPairs hmax, hlen]

end Sys2Proof.Machine
end

section
/-! PROOFS. FrameCodec (R110 to R116). A Frame is seen as the sequence of its field bytes: a span spells it where its
pairs are these bytes in order, ENCODE writes them, and the checksum is right where they fold to zero. From this follow
the round trip, and that a single flipped bit is caught. -/

namespace Sys2Proof.Machine

/-! ### HEXENC and HEXDEC (R110, R111) -/

theorem toNat_highNibble (b : Byte) : (highNibble b).toNat = b.toNat / 16 := by
  simp [highNibble, Nat.shiftRight_eq_div_pow]; omega

theorem toNat_lowNibble (b : Byte) : (lowNibble b).toNat = b.toNat % 16 := by
  simp [lowNibble]

theorem toNat_hexChar : ∀ v : Nibble, (v.toNat ≤ 9 → (hexChar v).toNat = 0x30 + v.toNat) ∧
    (10 ≤ v.toNat → (hexChar v).toNat = 0x41 + (v.toNat - 10)) := by decide

theorem classify_hexChar : ∀ v : Nibble, classify (hexChar v) = .digit ∨ classify (hexChar v) = .upper := by decide

/-- Settles O8: each character is the digit of its nibble. -/
theorem hexencGivesUpperCaseDigits : Obligations.HexencGivesUpperCaseDigits := by
  intro b s
  obtain ⟨hdigit, hletter⟩ := toNat_hexChar (highNibble b)
  obtain ⟨ldigit, lletter⟩ := toNat_hexChar (lowNibble b)
  rw [toNat_highNibble] at hdigit hletter
  rw [toNat_lowNibble] at ldigit lletter
  exact ⟨_, _, rfl, hdigit, hletter, ldigit, lletter, classify_hexChar _, classify_hexChar _, hexDec_hexEnc b⟩

theorem nibbles_append : ∀ x y : Nibble, (x ++ y : Byte).toNat = 16 * x.toNat + y.toNat ∧
    highNibble (x ++ y) = x ∧ lowNibble (x ++ y) = y := by decide

theorem hexVal_of_hexDec {h l x : Byte} (hd : hexDec h l = some x) :
    hexVal h = some (highNibble x) ∧ hexVal l = some (lowNibble x) := by
  unfold hexDec at hd
  split at hd
  · rename_i a b ha hb
    obtain ⟨-, hhigh, hlow⟩ := nibbles_append a b
    cases hd
    exact ⟨by rw [hhigh, ha], by rw [hlow, hb]⟩
  · cases hd

theorem hexDec_eq_none {h l : Byte} (hn : hexVal h = none ∨ hexVal l = none) : hexDec h l = none := by
  rcases hn with hn | hn <;> simp [hexDec, hn]

theorem hexVal_eq_none_iff {c : Byte} : hexVal c = none ↔ ¬ ((0x30 ≤ c.toNat ∧ c.toNat ≤ 0x39) ∨
    (0x41 ≤ c.toNat ∧ c.toNat ≤ 0x46) ∨ (0x61 ≤ c.toNat ∧ c.toNat ≤ 0x66)) := by
  unfold hexVal
  split_ifs <;> simp_all

theorem exec_hexdec_of_some {h l b : Byte} (s : State) (hd : hexDec h l = some b) :
    exec (.hexdec h l) s = .next { s with fnResult := some (.byte b) } := by
  simp only [exec, execHexdec, hd, State.answer]

theorem exec_hexdec_of_none {h l : Byte} (s : State) (hd : hexDec h l = none) :
    exec (.hexdec h l) s = .next { s with fnResult := some (.error .conversionError) } := by
  simp only [exec, execHexdec, hd, State.answer]

/-- Settles O9: the byte is the two nibbles side by side. -/
theorem hexdecDecodesOrFails : Obligations.HexdecDecodesOrFails := by
  intro h l s
  refine ⟨fun x y hx hy => ⟨x ++ y, (nibbles_append x y).1, exec_hexdec_of_some s ?_⟩,
    fun hn => exec_hexdec_of_none s (hexDec_eq_none hn), hexVal_eq_none_iff⟩
  rw [hexDec, hx, hy]

/-! ### CHECKSUM and VALIDATE (R112, R115) -/

theorem checksumOf_eq_foldl (c : Byte) (n : ArgCount) (a : List Byte) :
    checksumOf c n a = (a.take n.toNat).foldl (· ^^^ ·) (c ^^^ n.setWidth 8) := rfl

theorem checksumOf_zero (c : Byte) (a : List Byte) : checksumOf c 0 a = c := by
  simp [checksumOf_eq_foldl]

/-- A bit of a fold by exclusive-or is set where an odd number of the folded bytes has it set. -/
theorem getLsbD_foldl_xor (j : Nat) (l : List Byte) : ∀ c : Byte, (l.foldl (· ^^^ ·) c).getLsbD j = true ↔
    ((if c.getLsbD j then 1 else 0) + l.countP fun b => b.getLsbD j) % 2 = 1 := by
  induction l with
  | nil => intro c; cases h : c.getLsbD j <;> simp [h]
  | cons b l ih =>
    intro c
    rw [List.foldl_cons, ih, BitVec.getLsbD_xor, List.countP_cons]
    cases c.getLsbD j <;> cases b.getLsbD j <;> simp <;> omega

theorem exec_checksum (c : Byte) (n : ArgCount) (a : List Byte) (s : State) :
    exec (.checksum c n a) s = .next { s with fnResult := some (.byte (checksumOf c n a)) } := rfl

/-- Settles O10: CHECKSUM is a fold by exclusive-or, whose bits count parity. -/
theorem checksumIsXorFold : Obligations.ChecksumIsXorFold := by
  intro c n a s _ _
  refine ⟨_, exec_checksum c n a s, fun j hj => ?_, ?_⟩
  · rw [checksumOf_eq_foldl, getLsbD_foldl_xor, BitVec.getLsbD_xor, BitVec.getLsbD_setWidth]
    cases c.getLsbD j <;> cases n.getLsbD j <;> simp [hj]
  · rintro rfl; exact checksumOf_zero c a

theorem exec_validate_of_true {f : Frame} (s : State) (h : validates f = true) :
    exec (.validate f) s = .next { s with fnResult := some .ok } := by
  simp [exec, execValidate, h, State.answer]

theorem exec_validate_of_false {f : Frame} (s : State) (h : ¬ validates f = true) :
    exec (.validate f) s = .next { s with fnResult := some (.error .checksumMismatch) } := by
  simp [exec, execValidate, h, State.answer]

/-- Settles O13: VALIDATE is the comparison, and without arguments CHECKSUM is the command. -/
theorem validateComparesChecksum : Obligations.ValidateComparesChecksum := by
  intro f s
  refine ⟨fun h => exec_validate_of_true s ((validates_iff f).mpr h),
    fun h => exec_validate_of_false s (mt (validates_iff f).mp h), fun h => ?_⟩
  rw [h, checksumOf_zero]

/-! ### The field bytes of a Frame, and the span that spells them (R80, R114) -/

/-- The bytes of a Frame in the order of its fields (R80), one for each hex pair of its span. -/
def fieldBytes (f : Frame) : List Byte := f.command :: f.argCount.setWidth 8 :: (f.args ++ [f.checksum])

theorem length_fieldBytes (f : Frame) : (fieldBytes f).length = f.args.length + 3 := by simp [fieldBytes]

theorem getElem?_fieldBytes_arg {f : Frame} {i : Nat} (h : i < f.args.length) :
    (fieldBytes f)[i + 2]? = f.args[i]? := by
  simp [fieldBytes, List.getElem?_append_left h]

theorem getElem?_fieldBytes_checksum (f : Frame) : (fieldBytes f)[f.args.length + 2]? = some f.checksum := by
  simp [fieldBytes]

theorem fieldBytes_injective : Function.Injective fieldBytes := by
  rintro ⟨c, n, a, k⟩ ⟨c', n', a', k'⟩ h
  simp only [fieldBytes, List.cons.injEq] at h
  obtain ⟨rfl, hn, htail⟩ := h
  obtain ⟨rfl, hk⟩ := List.append_inj' htail rfl
  obtain rfl : n = n' := by bv_omega
  rw [List.singleton_inj.mp hk]

/-- A span spells a Frame where its pairs are the Frame's field bytes in order. -/
theorem spells_iff_fieldBytes {span : List Byte} {f : Frame} : Spells span f ↔
    f.argCount.toNat ≤ Config.maxArgs ∧ f.args.length = f.argCount.toNat ∧
      span.length = 2 * (fieldBytes f).length ∧
      ∀ j, j < (fieldBytes f).length → hexDecAt span (2 * j) = (fieldBytes f)[j]? := by
  unfold Spells
  refine and_congr_right fun hmax => and_congr_right fun hlen => ?_
  rw [length_fieldBytes, ← hlen]
  refine and_congr_right fun _ => ⟨?_, ?_⟩
  · rintro ⟨hc, hn, ha, hk⟩ j hj
    match j with
    | 0 => exact hc
    | 1 => exact hn
    | i + 2 =>
      rw [show 2 * (i + 2) = 4 + 2 * i by omega]
      rcases Nat.lt_or_ge i f.args.length with hi | hi
      · rw [ha i hi, getElem?_fieldBytes_arg hi]
      · obtain rfl : i = f.args.length := by omega
        rw [hk, getElem?_fieldBytes_checksum]
  · intro h
    refine ⟨h 0 (by omega), h 1 (by omega), fun i hi => ?_, ?_⟩
    · rw [← getElem?_fieldBytes_arg hi, ← h _ (by omega)]; congr 1; omega
    · rw [← getElem?_fieldBytes_checksum f, ← h _ (by omega)]; congr 1; omega

/-! ### DECODE (R114) -/

/-- What stands in a span that DECODE accepts: the checks (1) to (6) of R114, read backwards. -/
theorem decodeSpan_cases {span : List Byte} {f : Frame} (h : decodeSpan span = some f) :
    ∃ c n a k, f = ⟨c, n.setWidth 6, a, k⟩ ∧ n.toNat ≤ Config.maxArgs ∧ span.length = 2 * (n.toNat + 3) ∧
      hexDecAt span 0 = some c ∧ hexDecAt span 2 = some n ∧ decodeArgs span 4 n.toNat = some a ∧
      hexDecAt span (4 + 2 * n.toNat) = some k := by
  unfold decodeSpan at h
  split at h
  · cases h
  · split at h
    · rename_i c n hc hn
      split at h
      · cases h
      · rename_i hmax
        split at h
        · cases h
        · rename_i hlen
          split at h
          · rename_i a k ha hk
            exact ⟨c, n, a, k, (Option.some.inj h).symm, Nat.le_of_not_lt hmax, not_not.mp hlen, hc, hn, ha, hk⟩
          · cases h
    · cases h

theorem spells_of_decodeSpan {span : List Byte} {f : Frame} (h : decodeSpan span = some f) : Spells span f := by
  obtain ⟨c, n, a, k, rfl, hmax, hlen, hc, hn, ha, hk⟩ := decodeSpan_cases h
  obtain ⟨hargs, hread⟩ := (decodeArgs_eq_some _ _ _ _).mp ha
  have h32 : n.toNat ≤ 32 := hmax
  have hn6 : (n.setWidth 6).toNat = n.toNat := by simp; omega
  have hn8 : (n.setWidth 6).setWidth 8 = n := BitVec.eq_of_toNat_eq (by rw [BitVec.toNat_setWidth, hn6]; omega)
  unfold Spells
  rw [hn6, hn8]
  exact ⟨hmax, hargs, hlen, hc, hn, hread, hk⟩

theorem decodeSpan_of_spells {span : List Byte} {f : Frame} (h : Spells span f) : decodeSpan span = some f := by
  obtain ⟨hmax, hargs, hlen, hc, hn, ha, hk⟩ := h
  have hn8 : (f.argCount.setWidth 8).toNat = f.argCount.toNat := by simp; omega
  have ha' : decodeArgs span 4 f.argCount.toNat = some f.args := (decodeArgs_eq_some _ _ _ _).mpr ⟨hargs, ha⟩
  have hn6 : (f.argCount.setWidth 8).setWidth 6 = f.argCount := by simp
  unfold decodeSpan
  rw [if_neg (by omega)]
  simp only [hc, hn, hn8, hn6, ha', hk, if_neg (Nat.not_lt.mpr hmax), hlen, ne_eq, not_true, if_false]

theorem exec_decode_of_some {span : List Byte} {f : Frame} (s : State) (h : decodeSpan span = some f) :
    exec (.decode span) s = .next { s with fnResult := some (.frame f) } := by
  simp only [exec, execDecode, h, State.answer]

theorem exec_decode_of_none {span : List Byte} (s : State) (h : decodeSpan span = none) :
    exec (.decode span) s = .next { s with fnResult := some (.error .conversionError) } := by
  simp only [exec, execDecode, h, State.answer]

/-- Settles O12: DECODE answers a Frame exactly where the span spells it, so the span spells at most one. -/
theorem decodeAcceptsExactlySpelledFrames : Obligations.DecodeAcceptsExactlySpelledFrames := by
  intro span s
  refine ⟨fun f h => exec_decode_of_some s (decodeSpan_of_spells h), fun h => exec_decode_of_none s ?_,
    fun f g hf hg => Option.some.inj ((decodeSpan_of_spells hf).symm.trans (decodeSpan_of_spells hg))⟩
  exact Option.eq_none_iff_forall_ne_some.mpr fun f hf => h f (spells_of_decodeSpan hf)

/-! ### ENCODE (R113) -/

/-- The hex pair HEXENC writes for a byte: no letter is small. -/
def hexPairOf (b : Byte) : HexPair := ⟨⟨highNibble b, false⟩, ⟨lowNibble b, false⟩⟩

theorem bytes_hexPairOf (b : Byte) : (hexPairOf b).bytes = hexBytes b := rfl

theorem value_hexPairOf (b : Byte) : (hexPairOf b).value = b :=
  Option.some.inj ((hexDec_pair (hexPairOf b)).symm.trans (hexDec_hexEnc b))

/-- The wire frame of a Frame (R80): the pairs HEXENC writes for its field bytes. -/
def wireOf (f : Frame) : List Byte :=
  wireOfPairs (hexPairOf f.command) (hexPairOf (f.argCount.setWidth 8)) (f.args.map hexPairOf) (hexPairOf f.checksum)

theorem wireOf_eq (f : Frame) :
    wireOf f = Config.start :: ((fieldBytes f).flatMap hexBytes ++ [Config.stop]) := by
  simp [wireOf, wireOfPairs, fieldBytes, List.flatMap_map, bytes_hexPairOf]

theorem encodeFrame_eq_wireOf {f : Frame} (hmax : f.argCount.toNat ≤ Config.maxArgs)
    (hargs : f.args.length = f.argCount.toNat) : encodeFrame f = some (wireOf f) := by
  rw [encodeFrame, if_neg (Nat.not_lt.mpr hmax), ← hargs, List.take_length, wireOf_eq]
  simp [fieldBytes]

theorem length_wireOf (f : Frame) : (wireOf f).length = 2 * (f.args.length + 3) + 2 := by
  rw [wireOf, length_wireOfPairs, List.length_map]

/-- Field byte j is read at 1 + 2j of the wire frame. -/
theorem hexDecAt_wireOf (f : Frame) (j : Nat) : hexDecAt (wireOf f) (2 * j + 1) = (fieldBytes f)[j]? := by
  have hpairs : framePairs (hexPairOf f.command) (hexPairOf (f.argCount.setWidth 8)) (f.args.map hexPairOf)
      (hexPairOf f.checksum) = (fieldBytes f).map hexPairOf := by simp [framePairs, fieldBytes]
  rw [wireOf, hexDecAt_wireOfPairs, hpairs]
  simp [Function.comp_def, value_hexPairOf]

theorem spanOf_wireOf (f : Frame) : spanOf (wireOf f) = (fieldBytes f).flatMap hexBytes := by
  simp [spanOf, wireOf_eq]

/-- Every byte between the markers is a character of HEXENC. -/
theorem eq_hexChar_of_mem_spanOf_wireOf {f : Frame} {c : Byte} (h : c ∈ spanOf (wireOf f)) : ∃ v, c = hexChar v := by
  rw [spanOf_wireOf, List.mem_flatMap] at h
  obtain ⟨b, -, hc⟩ := h
  rcases List.mem_pair.mp hc with rfl | rfl
  · exact ⟨_, rfl⟩
  · exact ⟨_, rfl⟩

theorem exec_encode_of_some {f : Frame} {w : List Byte} (s : State) (h : encodeFrame f = some w) :
    exec (.encode f) s = .next { s with fnResult := some (.bytes w) } := by
  simp only [exec, execEncode, h, State.answer]

theorem exec_encode_of_none {f : Frame} (s : State) (h : encodeFrame f = none) :
    exec (.encode f) s = .next { s with fnResult := some (.error .encodeError) } := by
  simp only [exec, execEncode, h, State.answer]

/-- Settles O11: the fields by the positions of the field bytes, the markers and the characters by the wire's form. -/
theorem encodeWritesTheWireFrame : Obligations.EncodeWritesTheWireFrame := by
  intro f s hargs
  refine ⟨fun hmax => ⟨wireOf f, exec_encode_of_some s (encodeFrame_eq_wireOf hmax hargs), ?_⟩,
    fun h => exec_encode_of_none s (encodeFrame_eq_none.mpr h)⟩
  rw [← hargs]
  have hstop : (wireOf f).getLast? = some Config.stop := by
    rw [wireOf_eq, ← List.cons_append, List.getLast?_concat]
  refine ⟨length_wireOf f, by rw [wireOf_eq]; rfl, hstop, hexDecAt_wireOf f 0, hexDecAt_wireOf f 1, fun i hi => ?_, ?_,
    fun c hc => ?_⟩
  · rw [show 5 + 2 * i = 2 * (i + 2) + 1 by omega, hexDecAt_wireOf, getElem?_fieldBytes_arg hi]
  · rw [show 5 + 2 * f.args.length = 2 * (f.args.length + 2) + 1 by omega, hexDecAt_wireOf,
      getElem?_fieldBytes_checksum]
  · obtain ⟨v, rfl⟩ := eq_hexChar_of_mem_spanOf_wireOf hc
    exact classify_hexChar v

/-! ### The round trip (R116 (a), (c)) -/

theorem length_spanOf (w : List Byte) : (spanOf w).length = w.length - 2 := by
  simp [spanOf]; omega

/-- Inside the span every position of the wire frame moves by one. -/
theorem hexDecAt_spanOf {w : List Byte} {i : Nat} (h : i + 1 < (spanOf w).length) :
    hexDecAt (spanOf w) i = hexDecAt w (i + 1) := by
  have hget (k : Nat) (hk : k < (spanOf w).length) : (spanOf w)[k]? = w[k + 1]? := by
    rw [spanOf, List.length_dropLast] at hk
    rw [spanOf, List.getElem?_dropLast, if_pos hk, List.getElem?_drop, Nat.add_comm]
  exact hexDecAt_congr (hget _ (by omega)) (hget _ h)

/-- The span of a Frame's wire frame spells the Frame. -/
theorem spells_spanOf_wireOf {f : Frame} (hmax : f.argCount.toNat ≤ Config.maxArgs)
    (hargs : f.args.length = f.argCount.toNat) : Spells (spanOf (wireOf f)) f := by
  have hlen : (spanOf (wireOf f)).length = 2 * (fieldBytes f).length := by
    rw [length_spanOf, length_wireOf, length_fieldBytes]; omega
  exact spells_iff_fieldBytes.mpr ⟨hmax, hargs, hlen, fun j hj => by
    rw [hexDecAt_spanOf (by omega), hexDecAt_wireOf]⟩

/-- Settles O14: the span spells the Frame, and DECODE answers what a span spells. -/
theorem decodeOfEncodeIsTheFrame : Obligations.DecodeOfEncodeIsTheFrame := fun f hmax hargs =>
  ⟨wireOf f, encodeFrame_eq_wireOf hmax hargs, decodeSpan_of_spells (spells_spanOf_wireOf hmax hargs),
    fun ⟨_, _, hk⟩ => (validates_iff f).mpr hk⟩

/-- Settles O16: both Frames are what DECODE answers for the span of the one encoding. -/
theorem encodeIsInjective : Obligations.EncodeIsInjective := by
  intro f g hf hg hmax heq
  have hgmax : g.argCount.toNat ≤ Config.maxArgs := by
    by_contra hgt
    rw [encodeFrame_eq_none.mpr (Nat.not_le.mp hgt)] at heq
    exact absurd (encodeFrame_eq_none.mp heq) (Nat.not_lt.mpr hmax)
  have hwire : wireOf f = wireOf g := by
    simpa [encodeFrame_eq_wireOf hmax hf, encodeFrame_eq_wireOf hgmax hg] using heq
  have hfd := decodeSpan_of_spells (spells_spanOf_wireOf hmax hf)
  rw [hwire, decodeSpan_of_spells (spells_spanOf_wireOf hgmax hg)] at hfd
  exact (Option.some.inj hfd).symm

/-! ### A flipped bit (R116 (b)) -/

/-- The field bytes of a valid Frame fold to zero. -/
theorem foldl_xor_fieldBytes {f : Frame} (h : ValidFrame f) : (fieldBytes f).foldl (· ^^^ ·) 0 = 0 := by
  obtain ⟨-, hargs, hk⟩ := h
  rw [checksumOf_eq_foldl, ← hargs, List.take_length] at hk
  simp [fieldBytes, ← hk]

theorem foldl_xor_injective (l : List Byte) : Function.Injective fun c : Byte => l.foldl (· ^^^ ·) c := by
  induction l with
  | nil => exact fun _ _ h => h
  | cons b l ih => exact fun _ _ h => BitVec.xor_left_inj b |>.mp (ih h)

/-- A fold by exclusive-or sees the change of any one byte: sequences that agree but at j and have the same fold are
the same. -/
theorem eq_of_agree_of_foldl_xor_eq (l : List Byte) : ∀ (m : List Byte) (j : Nat) (c : Byte), l.length = m.length →
    (∀ i, i ≠ j → l[i]? = m[i]?) → l.foldl (· ^^^ ·) c = m.foldl (· ^^^ ·) c → l = m := by
  induction l with
  | nil => intro m _ _ hlen _ _; exact (List.eq_nil_of_length_eq_zero hlen.symm).symm
  | cons x l ih =>
    intro m j c hlen hagree hfold
    cases m with
    | nil => cases hlen
    | cons y m =>
      cases j with
      | zero =>
        obtain rfl : l = m := List.ext_getElem? fun i => hagree (i + 1) (by omega)
        rw [(BitVec.xor_right_inj c).mp (foldl_xor_injective l hfold)]
      | succ j =>
        obtain rfl : x = y := Option.some.inj (hagree 0 (by omega))
        rw [ih m j _ (by simpa using hlen) (fun i hi => hagree (i + 1) (by omega)) hfold]

/-- Of all bit flips of a character of HEXENC, only that of bit 5 of a letter leaves the hex value. -/
theorem flip_of_hexVal_eq : ∀ (v : Nibble) (b : Fin 8),
    hexVal (hexChar v ^^^ (1 <<< b.val)) = hexVal (hexChar v) → b.val = 5 ∧ classify (hexChar v) = .upper := by decide

theorem getElem?_flipBit_self {span : List Byte} {i : Nat} {c : Byte} (h : span[i]? = some c) (b : Nat) :
    (flipBit span i b)[i]? = some (c ^^^ (1 <<< b)) := by
  simp [flipBit, h]

/-- A flip leaves every pair but the one it falls in. -/
theorem hexDecAt_flipBit_of_ne (span : List Byte) (b : Nat) {i j : Nat} (h : j ≠ i / 2) :
    hexDecAt (flipBit span i b) (2 * j) = hexDecAt span (2 * j) := by
  refine hexDecAt_congr ?_ ?_
  · rw [flipBit, List.getElem?_modify_ne _ _ (by omega)]
  · rw [flipBit, List.getElem?_modify_ne _ _ (by omega)]

/-- A character has the hex value of its half of the byte that its pair decodes to. -/
theorem hexVal_of_hexDecAt {span : List Byte} {i : Nat} {c x : Byte} (hc : span[i]? = some c)
    (h : hexDecAt span (2 * (i / 2)) = some x) :
    hexVal c = some (if i % 2 = 0 then highNibble x else lowNibble x) := by
  unfold hexDecAt at h
  split at h
  · rename_i hi lo hhi hlo
    obtain ⟨h1, h2⟩ := hexVal_of_hexDec h
    rcases Nat.mod_two_eq_zero_or_one i with hm | hm
    · rw [show 2 * (i / 2) = i by omega, hc] at hhi
      obtain rfl := Option.some.inj hhi
      rw [h1, if_pos hm]
    · rw [show 2 * (i / 2) + 1 = i by omega, hc] at hlo
      obtain rfl := Option.some.inj hlo
      rw [h2, if_neg (by omega)]
  · cases h

/-- Settles O15: the flip falls in one pair, and the folds to zero of both Frames leave no room for one field byte to
differ; so the Frame is the same, and the flipped character still has its hex value. -/
theorem singleBitFlipsAreCaught : Obligations.SingleBitFlipsAreCaught := by
  intro f w i b g hf hw hi hb hd hg
  have ⟨hmax, hargs, _⟩ := hf
  obtain rfl : wireOf f = w := by simpa [encodeFrame_eq_wireOf hmax hargs] using hw
  obtain ⟨-, -, hlenf, hpairf⟩ := spells_iff_fieldBytes.mp (spells_spanOf_wireOf hmax hargs)
  obtain ⟨-, -, hleng, hpairg⟩ := spells_iff_fieldBytes.mp (spells_of_decodeSpan hd)
  have hlen : (fieldBytes g).length = (fieldBytes f).length := by
    rw [flipBit, List.length_modify, hlenf] at hleng; omega
  obtain rfl : g = f := by
    have hfold := (foldl_xor_fieldBytes (validFrame_of_decodeSpan hd hg)).trans (foldl_xor_fieldBytes hf).symm
    refine fieldBytes_injective (eq_of_agree_of_foldl_xor_eq _ _ (i / 2) 0 hlen (fun k hk => ?_) hfold)
    rcases Nat.lt_or_ge k (fieldBytes f).length with hlt | hge
    · rw [← hpairf k hlt, ← hpairg k (by omega), hexDecAt_flipBit_of_ne _ _ hk]
    · rw [List.getElem?_eq_none hge, List.getElem?_eq_none (by omega)]
  have hj : i / 2 < (fieldBytes g).length := by omega
  have hc := List.getElem?_eq_getElem hi
  have hx := List.getElem?_eq_getElem hj
  obtain ⟨v, hv⟩ := eq_hexChar_of_mem_spanOf_wireOf (List.getElem_mem hi)
  have hsame := (hexVal_of_hexDecAt (getElem?_flipBit_self hc b) ((hpairg _ hj).trans hx)).trans
    (hexVal_of_hexDecAt hc ((hpairf _ hj).trans hx)).symm
  rw [hv] at hsame
  obtain ⟨hb5, hupper⟩ := flip_of_hexVal_eq v ⟨b, hb⟩ hsame
  exact ⟨rfl, hb5, by rw [hc, hv, Option.map_some, hupper]⟩

end Sys2Proof.Machine
end

section
/-! PROOFS. ReceiveAssembler (R140 to R147): what each micro-operation makes of a buffer that holds a sequence, and
which operations touch `asm_state`, the dispatch port and `disp_trace`. -/

namespace Sys2Proof.Machine

variable {s t : State} {buf : List Byte}

/-! ### A.SCAN (R141) -/

/-- A.SCAN drops the bytes before the first START, or all of them, and asks whether a byte is left. -/
theorem execAScan_of_holds (ha : s.asm = .scanning) (hb : s.Holds buf) {k : Nat}
    (hk : (find buf Config.start 0).getD buf.length = k) :
    execAScan s = .next ((s.newTransaction.dropFront k).goto (if k = buf.length then .idle else .collecting)) := by
  have hle : k ≤ buf.length := hk ▸ find_getD_length_le buf Config.start 0
  have hempty : (s.newTransaction.dropFront k).rxLen = 0 ↔ k = buf.length := by
    rw [← BitVec.toNat_inj, State.dropFront_rxLen, rxLen_sub (hb.1 ▸ hle), State.newTransaction_rxLen, hb.1,
      show BitVec.toNat (0 : Index) = 0 from rfl]
    omega
  simp only [execAScan, if_pos ha, State.buffer_of_holds hb, hk,
    State.compact_of_le (s := s.newTransaction) (hb.1 ▸ hle), hempty]
  split <;> rfl

/-- Settles O18: what is dropped ends at the START that `find` gives, and is the whole buffer where there is none. -/
theorem scanResynchronises : Obligations.ScanResynchronises := by
  intro s buf ha hb
  have hdrop (k : Nat) (hk : k ≤ buf.length) : (s.newTransaction.dropFront k).Holds (buf.drop k) :=
    State.Holds.dropFront (s := s.newTransaction) hb k hk
  refine ⟨_, execAScan_of_holds ha hb rfl, fun k hk hfirst => ?_, fun hnone => ?_, rfl, rfl, rfl, rfl, rfl,
    ⟨rfl, rfl, rfl⟩, ⟨rfl, rfl⟩, rfl, rfl, rfl⟩
  · rw [find_of_first k.zero_le hk fun i _ => hfirst i, Option.getD_some]
    have hlt : k < buf.length := (List.getElem?_eq_some_iff.mp hk).1
    exact ⟨hdrop k hlt.le, if_neg hlt.ne⟩
  · rw [find_of_not_mem hnone, Option.getD_none]
    exact ⟨List.drop_length (l := buf) ▸ hdrop _ le_rfl, if_pos rfl⟩

/-! ### A.COLLECT (R142) -/

theorem execACollect_of_stop (ha : s.asm = .collecting) (hb : s.Holds buf) {e : Nat}
    (hf : find buf Config.stop 1 = some e) :
    execACollect s = .next ((s.newTransaction.setStopIdx e).goto .decoding) := by
  simp only [execACollect, if_pos ha, State.buffer_of_holds hb, hf]

theorem execACollect_of_full (ha : s.asm = .collecting) (hb : s.Holds buf) (hf : find buf Config.stop 1 = none)
    (hfull : buf.length = Config.capacity) : execACollect s =
      .next ((s.newTransaction.resetBuf.raise .bufferOverflow Config.capacity).goto .scanning) := by
  simp only [execACollect, if_pos ha, State.buffer_of_holds hb, hf, hb.1, if_pos hfull]

theorem execACollect_of_room (ha : s.asm = .collecting) (hb : s.Holds buf) (hf : find buf Config.stop 1 = none)
    (hroom : buf.length < Config.capacity) : execACollect s = .next (s.newTransaction.goto .idle) := by
  simp only [execACollect, if_pos ha, State.buffer_of_holds hb, hf, hb.1, if_neg hroom.ne]

/-- Settles O19, a case for a STOP, for a full buffer without one, and for a buffer without one that has room. -/
theorem collectFindsFrameBoundary : Obligations.CollectFindsFrameBoundary := by
  intro s buf ha hb hcap
  have hbuf : s.newTransaction.Holds buf := hb
  cases hf : find buf Config.stop 1 with
  | some e =>
    obtain ⟨hone, hstop, -⟩ := find_eq_some hf
    have hval : (BitVec.ofNat 9 e).toNat = e := by simpa using (find_lt hf).trans hb.length_lt
    refine ⟨_, execACollect_of_stop ha hb hf, fun e' h1 he' hfirst => ?_, fun hnone => ?_, rfl, rfl, rfl,
      ⟨rfl, rfl, rfl⟩, rfl, rfl, rfl, rfl⟩
    · obtain rfl : e = e' := Option.some.inj (hf.symm.trans (find_of_first h1 he' hfirst))
      exact ⟨rfl, hval, hbuf, rfl, rfl⟩
    · cases hf.symm.trans (find_of_not_mem hnone)
  | none =>
    have habsurd {e : Nat} (h1 : 1 ≤ e) (he : buf[e]? = some Config.stop) : False := find_eq_none hf e h1 he
    rcases hcap.eq_or_lt with hfull | hroom
    · refine ⟨_, execACollect_of_full ha hb hf hfull, fun e h1 he => (habsurd h1 he).elim,
        fun _ => ⟨rfl, fun _ => ⟨rfl, s.holds_resetBuf, rfl, ?_⟩, fun hlt => absurd hfull hlt.ne⟩, rfl, rfl, rfl,
        ⟨rfl, rfl, rfl⟩, rfl, rfl, rfl, rfl⟩
      exact (by decide : (0 : BitVec 5) ||| ErrorName.bufferOverflow.pulse = 0b00100)
    · exact ⟨_, execACollect_of_room ha hb hf hroom, fun e h1 he => (habsurd h1 he).elim,
        fun _ => ⟨rfl, fun hfull => absurd hfull hroom.ne, fun _ => ⟨rfl, hbuf, rfl, rfl⟩⟩, rfl, rfl, rfl,
        ⟨rfl, rfl, rfl⟩, rfl, rfl, rfl, rfl⟩

/-! ### A.DECODE (R143) -/

theorem execADecode_of_none {span : List Byte} (ha : s.asm = .decoding) (hs : s.span = some span)
    (hd : decodeSpan span = none) : execADecode s = .next ((s.newTransaction.setRxErr 1).goto .discard) := by
  rw [State.span] at hs
  simp only [execADecode, if_pos ha, hs, hd]

theorem execADecode_of_valid {span : List Byte} {f : Frame} (ha : s.asm = .decoding) (hs : s.span = some span)
    (hd : decodeSpan span = some f) (hv : validates f = true) :
    execADecode s = .next ((s.newTransaction.setRxf f).goto .dispatch) := by
  rw [State.span] at hs
  simp only [execADecode, if_pos ha, hs, hd, if_pos hv]

theorem execADecode_of_invalid {span : List Byte} {f : Frame} (ha : s.asm = .decoding) (hs : s.span = some span)
    (hd : decodeSpan span = some f) (hv : ¬ validates f = true) :
    execADecode s = .next ((s.newTransaction.setRxErr 2).goto .discard) := by
  rw [State.span] at hs
  simp only [execADecode, if_pos ha, hs, hd, if_neg hv]

/-- The span in hand as a part of the sequence (R143). -/
theorem State.Holds.span_eq (hb : s.Holds buf) (h1 : 1 ≤ s.stopIdx.toNat) (hle : s.stopIdx.toNat ≤ buf.length) :
    s.span = some ((buf.drop 1).take (s.stopIdx.toNat - 1)) :=
  State.readRange_of_holds hb _ 1 (by omega)

/-- Settles O20, a case for each answer of DECODE and VALIDATE. -/
theorem decodeStepChoosesDispatchOrDiscard : Obligations.DecodeStepChoosesDispatchOrDiscard := by
  intro s buf ha hb h1 hle
  have hs := hb.span_eq h1 hle
  have hbuf : s.newTransaction.Holds buf := hb
  generalize (buf.drop 1).take (s.stopIdx.toNat - 1) = span at hs
  cases hd : decodeSpan span with
  | none =>
    exact ⟨_, execADecode_of_none ha hs hd, fun _ hf => (nomatch hf), fun _ => ⟨rfl, rfl, rfl⟩, hbuf, rfl, rfl,
      rfl, ⟨rfl, rfl, rfl⟩, ⟨rfl, rfl⟩, rfl, rfl, rfl⟩
  | some f =>
    by_cases hv : validates f = true
    · refine ⟨_, execADecode_of_valid ha hs hd hv, fun g hg => ?_, fun hn => (nomatch hn), hbuf, rfl, rfl, rfl,
        ⟨rfl, rfl, rfl⟩, ⟨rfl, rfl⟩, rfl, rfl, rfl⟩
      obtain rfl := Option.some.inj hg
      exact ⟨fun _ => ⟨rfl, rfl, rfl⟩, fun hne => absurd ((validates_iff f).mp hv) hne⟩
    · refine ⟨_, execADecode_of_invalid ha hs hd hv, fun g hg => ?_, fun hn => (nomatch hn), hbuf, rfl, rfl,
        rfl, ⟨rfl, rfl, rfl⟩, ⟨rfl, rfl⟩, rfl, rfl, rfl⟩
      obtain rfl := Option.some.inj hg
      exact ⟨fun heq => absurd ((validates_iff f).mpr heq) hv, fun _ => ⟨rfl, rfl, rfl⟩⟩

/-! ### A.DISPATCH and A.DISCARD (R144, R145) -/

/-- A.DISPATCH and A.DISCARD remove START, span and STOP from the sequence. -/
theorem State.Holds.dropFront_inHand (hb : s.Holds buf) (hlt : s.stopIdx.toNat < buf.length) :
    (s.dropFront s.inHand).Holds (buf.drop (s.stopIdx.toNat + 1)) := hb.dropFront _ hlt

theorem execADispatch_of_le (ha : s.asm = .dispatch) (hk : s.inHand ≤ s.rxLen.toNat) : execADispatch true s =
    .next (((s.newTransaction.emitDispatch s.dispatched).dropFront s.inHand).forgetDispatched.goto .scanning) := by
  have hk' : s.inHand ≤ (s.newTransaction.emitDispatch s.dispatched).rxLen.toNat := hk
  simp only [execADispatch, ha, and_self, if_true, State.compact_of_le hk']

theorem execADiscard_of_le (ha : s.asm = .discard) (hk : s.inHand ≤ s.rxLen.toNat) : execADiscard s =
    .next (((s.newTransaction.raise s.latchedError s.inHand).dropFront s.inHand).forgetDiscarded.goto .scanning) := by
  have hk' : s.inHand ≤ (s.newTransaction.raise s.latchedError s.inHand).rxLen.toNat := hk
  simp only [execADiscard, if_pos ha, State.compact_of_le hk']

/-- Settles O21: the frame in hand lies in the buffer, so COMPACT removes it in the step that hands RXF over. -/
theorem dispatchHandsOverAndCompacts : Obligations.DispatchHandsOverAndCompacts := by
  intro s buf ha hb hlt
  refine ⟨⟨_, execADispatch_of_le ha (hb.1 ▸ hlt), rfl, hb.dropFront_inHand hlt, rfl, rfl, rfl, rfl, rfl,
    ⟨rfl, rfl, rfl⟩, rfl, rfl⟩, execADispatch_of_not_enabled fun h => Bool.noConfusion h.2, ?_, rfl, rfl, rfl⟩
  simp [State.outputs, ha]

/-- Settles O22: the error is the one `rx_err` names, and COMPACT removes the frame in hand. -/
theorem discardRaisesLatchedError : Obligations.DiscardRaisesLatchedError := by
  intro s buf ha hb hlt
  refine ⟨_, execADiscard_of_le ha (hb.1 ▸ hlt), fun h1 => ?_, fun hne => ?_, hb.dropFront_inHand hlt, rfl, rfl, rfl,
    ⟨rfl, rfl, rfl⟩, rfl, rfl, rfl⟩
  · rw [State.latchedError, if_pos h1]
    exact ⟨rfl, (by decide : (0 : BitVec 5) ||| ErrorName.conversionError.pulse = 0b00001)⟩
  · rw [State.latchedError, if_neg hne]
    exact ⟨rfl, (by decide : (0 : BitVec 5) ||| ErrorName.checksumMismatch.pulse = 0b00010)⟩

/-! ### Which operations touch the assembler (R140, R144) -/

/-- What no operation but TICK, RESET and the micro-operations touches: `asm_state` and its registers, `disp_trace`,
and the count of free values, which the don't-care bits of the dispatch port depend on. -/
def SameDispatchSide (s t : State) : Prop :=
  SameAssembler s t ∧ t.dispTrace = s.dispTrace ∧ t.freeCount = s.freeCount

theorem SameDispatchSide.refl (s : State) : SameDispatchSide s s := ⟨⟨rfl, rfl, rfl, rfl⟩, rfl, rfl⟩

theorem sameDispatchSide_feed (s : State) (w : List Byte) : SameDispatchSide s (s.feed w) := by
  obtain ⟨hasm, hstop, herr, hrxf, -, -, -, hdisp, -, -, hfree⟩ := s.feed_frame w
  exact ⟨⟨hasm, hstop, herr, hrxf⟩, hdisp, hfree⟩

theorem SameDispatchSide.answer (h : SameDispatchSide s t) (r : FnResult) : SameDispatchSide s (t.answer r) := h

theorem sameDispatchSide_receive (s : State) (b : Byte) : SameDispatchSide s (s.receive b) :=
  sameDispatchSide_feed s [b]

/-- The operations that may touch the assembler. -/
def TouchesAssembler (i : Instr) : Prop := i = .tick ∨ i = .reset ∨ ∃ a r, microOp a r = some i

theorem exec_outside_assembler {i : Instr} (hi : ¬ TouchesAssembler i) (he : exec i s = .next t) :
    SameDispatchSide s t := by
  have fn (c : FnCall) (hc : exec c.instr s = .next t) : SameDispatchSide s t := by
    obtain ⟨r, hr⟩ := exec_fnCall c s
    cases hr.symm.trans hc
    exact .refl s
  have micro {a : AsmState} {r : Bool} (hm : microOp a r = some i) : SameDispatchSide s t :=
    absurd (.inr (.inr ⟨a, r, hm⟩)) hi
  cases i with
  | tick => exact absurd (.inl rfl) hi
  | reset => exact absurd (.inr (.inl rfl)) hi
  | aScan => exact micro (a := .scanning) (r := true) rfl
  | aCollect => exact micro (a := .collecting) (r := true) rfl
  | aDecode => exact micro (a := .decoding) (r := true) rfl
  | aDispatch r => exact micro (a := .dispatch) (r := r) rfl
  | aDiscard => exact micro (a := .discard) (r := true) rfl
  | hexenc b => exact fn (.hexenc b) he
  | hexdec h l => exact fn (.hexdec h l) he
  | checksum c n a => exact fn (.checksum c n a) he
  | encode f => exact fn (.encode f) he
  | decode span => exact fn (.decode span) he
  | validate f => exact fn (.validate f) he
  | sendFrame c n a =>
    rcases execSendFrame_cases he with ⟨-, rfl⟩ | ⟨-, -, rfl⟩ | ⟨-, -, w, -, rfl⟩
    all_goals exact .refl _
  | sendBuffer m last =>
    rcases execSendBuffer_cases he with ⟨-, rfl⟩ | ⟨-, rfl⟩
    all_goals exact .refl _
  | frame c n a k => cases he; exact (sameDispatchSide_feed _ _).answer _
  | ingest b => cases he; exact sameDispatchSide_receive _ b
  | digit _ | start | stop | upper _ | lower _ | other _ => cases he; exact (sameDispatchSide_receive _ _).answer _

/-- Settles O24: the operations outside the assembler leave `asm_state`, and each of the others has its own list of
what it can do. -/
theorem transitionTableIsComplete : Obligations.TransitionTableIsComplete := by
  intro i s t he hne hreset
  by_cases hi : TouchesAssembler i
  · rcases hi with rfl | rfl | ⟨a, r, hm⟩
    · rcases execTick_cases he with ⟨ha, rfl⟩ | ⟨-, rfl⟩
      · exact .inl ⟨rfl, ha, rfl⟩
      · exact absurd rfl hne
    · exact absurd rfl hreset
    · refine .inr ?_
      cases a with
      | idle => cases hm
      | scanning =>
        cases hm
        rcases execAScan_cases he with ⟨-, rfl⟩ | ⟨ha, buf, k, -, -, -, ⟨-, rfl⟩ | ⟨-, rfl⟩⟩
        · exact absurd rfl hne
        · exact .inl ⟨rfl, ha, .inr rfl⟩
        · exact .inl ⟨rfl, ha, .inl rfl⟩
      | collecting =>
        cases hm
        rcases execACollect_cases he with ⟨-, rfl⟩ | ⟨ha, buf, -, ⟨e, -, rfl⟩ | ⟨-, -, rfl⟩ | ⟨-, -, rfl⟩⟩
        · exact absurd rfl hne
        · exact .inr (.inl ⟨rfl, ha, .inl rfl⟩)
        · exact .inr (.inl ⟨rfl, ha, .inr (.inl rfl)⟩)
        · exact .inr (.inl ⟨rfl, ha, .inr (.inr rfl)⟩)
      | decoding =>
        cases hm
        rcases execADecode_cases he with ⟨-, rfl⟩ | ⟨ha, span, -, ⟨-, rfl⟩ | ⟨f, -, -, rfl⟩ | ⟨f, -, -, rfl⟩⟩
        · exact absurd rfl hne
        · exact .inr (.inr (.inl ⟨rfl, ha, .inr rfl⟩))
        · exact .inr (.inr (.inl ⟨rfl, ha, .inl rfl⟩))
        · exact .inr (.inr (.inl ⟨rfl, ha, .inr rfl⟩))
      | dispatch =>
        cases hm
        rcases execADispatch_cases he with ⟨-, rfl⟩ | ⟨ha, rfl, -, rfl⟩
        · exact absurd rfl hne
        · exact .inr (.inr (.inr (.inl ⟨rfl, ha, rfl⟩)))
      | discard =>
        cases hm
        rcases execADiscard_cases he with ⟨-, rfl⟩ | ⟨ha, -, rfl⟩
        · exact absurd rfl hne
        · exact .inr (.inr (.inr (.inr ⟨rfl, ha, rfl⟩)))
  · obtain ⟨⟨hasm, -⟩, -⟩ := exec_outside_assembler hi he
    exact absurd hasm hne

/-- A STOP at no index from 1 on is none behind the first byte. -/
theorem stop_not_mem_drop_of_find (hf : find buf Config.stop 1 = none) : Config.stop ∉ buf.drop 1 := by
  intro hm
  obtain ⟨i, hi⟩ := List.mem_iff_getElem?.mp hm
  rw [List.getElem?_drop] at hi
  exact find_eq_none hf _ (Nat.le_add_right 1 i) hi

theorem State.holds_nil_of_rxLen (h : s.rxLen = 0) : s.Holds [] :=
  ⟨by rw [h]; rfl, fun i => by rw [State.memRead_none s (by rw [h]; exact i.zero_le)]; rfl⟩

/-- Settles O25: of the rows that write Idle, A.SCAN's leaves nothing, and A.COLLECT's a buffer that begins with START
and has room, in which it found no STOP. -/
theorem tickEndsQuiescent : Obligations.TickEndsQuiescent := by
  intro i s t hi he hreset hbusy hidle
  have hne : t.asm ≠ s.asm := fun h => hbusy (h ▸ hidle)
  rcases transitionTableIsComplete i s t he hne hreset with ⟨-, -, h⟩ | ⟨rfl, -⟩ | ⟨rfl, ha, -⟩ |
    ⟨-, -, h | h⟩ | ⟨-, -, h⟩ | ⟨-, -, h⟩
  · cases h.symm.trans hidle
  · rcases execAScan_cases he with ⟨-, rfl⟩ | ⟨-, buf, k, -, -, -, ⟨hempty, rfl⟩ | ⟨-, rfl⟩⟩
    · exact absurd rfl hne
    · exact ⟨[], State.holds_nil_of_rxLen hempty, .inl rfl⟩
    · cases hidle
  · obtain ⟨buf, hb, hcap⟩ := hi.holds
    rcases execACollect_cases he with ⟨-, rfl⟩ | ⟨-, buf', hbuf, ⟨e, -, rfl⟩ | ⟨-, -, rfl⟩ | ⟨hf, hroom, rfl⟩⟩
    · exact absurd rfl hne
    · cases hidle
    · cases hidle
    · obtain rfl : buf = buf' := Option.some.inj ((State.buffer_of_holds hb).symm.trans hbuf)
      have hstart : buf.head? = some Config.start := by rw [List.head?_eq_getElem?, ← hb.2, hi.collecting ha]
      exact ⟨buf, hb, .inr ⟨hstart, stop_not_mem_drop_of_find hf, hcap.lt_of_ne (hb.1 ▸ hroom)⟩⟩
  all_goals cases h.symm.trans hidle

/-! ### The dispatch port and the frames handed over (R144, R244) -/

/-- A micro-operation in Dispatch without the hand-over is not enabled. -/
theorem exec_microOp_of_dispatch {i : Instr} {a : AsmState} {r : Bool} (hd : s.asm = .dispatch)
    (hm : microOp a r = some i) (hi : i ≠ .aDispatch true) : exec i s = .next s := by
  have hne {b : AsmState} (h : AsmState.dispatch ≠ b) : s.asm ≠ b := hd ▸ h
  cases a with
  | idle => cases hm
  | scanning => cases hm; exact execAScan_of_not_enabled (hne nofun)
  | collecting => cases hm; exact execACollect_of_not_enabled (hne nofun)
  | decoding => cases hm; exact execADecode_of_not_enabled (hne nofun)
  | dispatch => cases hm; exact execADispatch_of_not_enabled fun ⟨_, hr⟩ => hi (hr ▸ rfl)
  | discard => cases hm; exact execADiscard_of_not_enabled (hne nofun)

/-- Settles O26: in Dispatch every other operation leaves RXF, and the count that the port's don't-care bits depend
on. -/
theorem dispatchPortIsStable : Obligations.DispatchPortIsStable := by
  intro i s t hd he hdisp hreset
  have hsame : SameDispatchSide s t := by
    by_cases hi : TouchesAssembler i
    · rcases hi with rfl | rfl | ⟨a, r, hm⟩
      · rcases execTick_cases he with ⟨ha, -⟩ | ⟨-, rfl⟩
        · cases hd.symm.trans ha
        · exact .refl _
      · exact absurd rfl hreset
      · cases (exec_microOp_of_dispatch hd hm hdisp).symm.trans he
        exact .refl _
    · exact exec_outside_assembler hi he
  obtain ⟨⟨hasm, -, -, hrxf⟩, -, hfree⟩ := hsame
  have hbyte : t.dispArgByte = s.dispArgByte := by funext i; simp only [State.dispArgByte, hrxf, hfree]
  simp only [State.outputs, hasm, hd, hrxf, hbyte]
  exact ⟨trivial, rfl, trivial, trivial, trivial, trivial⟩

/-- Settles O41: no operation but A.DISPATCH writes `disp_trace`, and what it writes is RXF, which the invariant knows
to be valid and decoded from the span in hand. -/
theorem onlyValidFramesAreHandedOver : Obligations.OnlyValidFramesAreHandedOver := by
  intro i s t hi he hne
  by_cases ht : TouchesAssembler i
  · rcases ht with rfl | rfl | ⟨a, r, hm⟩
    · rcases execTick_cases he with ⟨-, rfl⟩ | ⟨-, rfl⟩ <;> exact absurd rfl hne
    · cases he; exact absurd rfl hne
    · cases a with
      | idle => cases hm
      | scanning =>
        cases hm
        rcases execAScan_cases he with ⟨-, rfl⟩ | ⟨-, buf, k, -, -, -, ⟨-, rfl⟩ | ⟨-, rfl⟩⟩ <;> exact absurd rfl hne
      | collecting =>
        cases hm
        rcases execACollect_cases he with ⟨-, rfl⟩ | ⟨-, buf, -, ⟨e, -, rfl⟩ | ⟨-, -, rfl⟩ | ⟨-, -, rfl⟩⟩ <;>
          exact absurd rfl hne
      | decoding =>
        cases hm
        rcases execADecode_cases he with ⟨-, rfl⟩ | ⟨-, span, -, ⟨-, rfl⟩ | ⟨f, -, -, rfl⟩ | ⟨f, -, -, rfl⟩⟩ <;>
          exact absurd rfl hne
      | dispatch =>
        cases hm
        rcases execADispatch_cases he with ⟨-, rfl⟩ | ⟨ha, rfl, -, rfl⟩
        · exact absurd rfl hne
        · obtain ⟨hvalid, span, hspan, hdecode⟩ := hi.dispatch ha
          refine ⟨rfl, ha, s.rxf, span, ?_, hvalid, hspan, hdecode⟩
          rw [← State.dispatched_eq_rxf hvalid]; rfl
      | discard =>
        cases hm
        rcases execADiscard_cases he with ⟨-, rfl⟩ | ⟨-, -, rfl⟩ <;> exact absurd rfl hne
  · obtain ⟨-, hdisp, -⟩ := exec_outside_assembler ht he
    exact absurd hdisp hne

end Sys2Proof.Machine
end

section
/-! PROOFS. A deframer that reads one byte at a time and never waits, as the reference for the assembler: what the bytes
received come to (R86, R141 to R145). Every turn of the driver takes the assembler nearer to what the deframer makes of
the bytes in the buffer and those still to come, and a tick ends after as many turns as R194 allows. -/

namespace Sys2Proof.Machine

/-! ### The deframer -/

/-- The frames dispatched, the events raised, and the bytes since the last START where it has no STOP yet. -/
structure Deframer where
  frames : List Frame
  events : List Event
  opened : Option (List Byte)

namespace Deframer

variable {d : Deframer}

/-- A STOP ends the span: DECODE and VALIDATE choose between dispatch and discard (R143 to R145). -/
def close (d : Deframer) (span : List Byte) : Deframer :=
  match decodeSpan span with
  | none => ⟨d.frames, d.events ++ [⟨.conversionError, span.length + 2⟩], none⟩
  | some f =>
    if validates f then ⟨d.frames ++ [f], d.events, none⟩
    else ⟨d.frames, d.events ++ [⟨.checksumMismatch, span.length + 2⟩], none⟩

/-- A byte outside a frame is dropped unless it is START (R141); inside, all bytes but STOP are the span's (R142). -/
def next (d : Deframer) (b : Byte) : Deframer :=
  match d.opened with
  | none => if b = Config.start then { d with opened := some [] } else d
  | some span => if b = Config.stop then d.close span else { d with opened := some (span ++ [b]) }

/-- The bytes one after the other. -/
def feed (d : Deframer) (bytes : List Byte) : Deframer := bytes.foldl next d

/-- The end of a tick: an open frame that fills the buffer overflows (R142). -/
def settle (d : Deframer) : Deframer :=
  match d.opened with
  | none => d
  | some span =>
    if span.length + 1 = Config.capacity then ⟨d.frames, d.events ++ [⟨.bufferOverflow, Config.capacity⟩], none⟩
    else d

/-- What the bytes come to. -/
def verdict (d : Deframer) (bytes : List Byte) : Deframer := (d.feed bytes).settle

/-- The bytes that stay: an open frame from its START on. -/
def residue (d : Deframer) : List Byte :=
  match d.opened with
  | none => []
  | some span => Config.start :: span

theorem close_of_none {span : List Byte} (h : decodeSpan span = none) :
    d.close span = ⟨d.frames, d.events ++ [⟨.conversionError, span.length + 2⟩], none⟩ := by
  simp only [close, h]

theorem close_of_valid {span : List Byte} {f : Frame} (h : decodeSpan span = some f) (hv : validates f = true) :
    d.close span = ⟨d.frames ++ [f], d.events, none⟩ := by
  simp only [close, h, if_pos hv]

theorem close_of_invalid {span : List Byte} {f : Frame} (h : decodeSpan span = some f) (hv : validates f = false) :
    d.close span = ⟨d.frames, d.events ++ [⟨.checksumMismatch, span.length + 2⟩], none⟩ := by
  simp [close, h, hv]

@[simp] theorem feed_nil (d : Deframer) : d.feed [] = d := rfl

@[simp] theorem feed_cons (d : Deframer) (b : Byte) (l : List Byte) : d.feed (b :: l) = (d.next b).feed l := rfl

theorem feed_append (d : Deframer) (l m : List Byte) : d.feed (l ++ m) = (d.feed l).feed m := List.foldl_append

theorem next_start (h : d.opened = none) : d.next Config.start = { d with opened := some [] } := by
  simp [next, h]

theorem next_stop {span : List Byte} (h : d.opened = some span) : d.next Config.stop = d.close span := by
  simp [next, h]

/-- Outside a frame, bytes without a START come to nothing (R141). -/
theorem feed_of_start_not_mem (h : d.opened = none) {g : List Byte} (hg : Config.start ∉ g) : d.feed g = d := by
  induction g with
  | nil => rfl
  | cons b g ih =>
    obtain ⟨hb, hrest⟩ := not_or.mp (mt List.mem_cons.mpr hg)
    rw [feed_cons, show d.next b = d by simp [next, h, Ne.symm hb], ih hrest]

/-- Inside a frame, bytes without a STOP are all the span's. -/
theorem feed_of_stop_not_mem {m : List Byte} (hm : Config.stop ∉ m) : ∀ {d : Deframer} {span : List Byte},
    d.opened = some span → d.feed m = { d with opened := some (span ++ m) } := by
  induction m with
  | nil => intro d span h; rw [List.append_nil, ← h]; rfl
  | cons b m ih =>
    intro d span h
    obtain ⟨hb, hrest⟩ := not_or.mp (mt List.mem_cons.mpr hm)
    have hnext : d.next b = { d with opened := some (span ++ [b]) } := by simp [next, h, Ne.symm hb]
    rw [feed_cons, hnext, ih hrest rfl, List.append_assoc, List.singleton_append]

/-- A START without a STOP opens a frame. -/
theorem feed_partial (h : d.opened = none) {m : List Byte} (hm : Config.stop ∉ m) :
    d.feed (Config.start :: m) = { d with opened := some m } := by
  rw [feed_cons, next_start h, feed_of_stop_not_mem hm rfl, List.nil_append]

/-- START, span and STOP are closed as one. -/
theorem feed_frame (h : d.opened = none) {span : List Byte} (hs : Config.stop ∉ span) (rest : List Byte) :
    d.feed (Config.start :: (span ++ Config.stop :: rest)) = (d.close span).feed rest := by
  rw [← List.cons_append, feed_append, feed_partial h hs, feed_cons, next_stop rfl]
  rfl

theorem settle_of_closed (h : d.opened = none) : d.settle = d := by simp only [settle, h]

theorem verdict_of_full (h : d.opened = none) {m : List Byte} (hm : Config.stop ∉ m)
    (hfull : m.length + 1 = Config.capacity) : d.verdict (Config.start :: m) =
      ⟨d.frames, d.events ++ [⟨.bufferOverflow, Config.capacity⟩], none⟩ := by
  rw [verdict, feed_partial h hm]
  simp only [settle, if_pos hfull]

theorem verdict_nil (h : d.opened = none) : d.verdict [] = d := settle_of_closed h

/-- A quiescent buffer (R147) comes to no frame and no event, and stays. -/
theorem verdict_of_quiescent (h : d.opened = none) {buf : List Byte} (hq : QuiescentShape buf) :
    (d.verdict buf).frames = d.frames ∧ (d.verdict buf).events = d.events ∧ (d.verdict buf).residue = buf := by
  rcases hq with rfl | ⟨hstart, hstop, hroom⟩
  · rw [verdict_nil h, residue, h]
    exact ⟨rfl, rfl, rfl⟩
  · obtain ⟨m, rfl⟩ := List.head?_eq_some_iff.mp hstart
    have hne : m.length + 1 ≠ Config.capacity := hroom.ne
    rw [verdict, feed_partial h (m := m) hstop]
    simp only [settle, if_neg hne, residue, and_self]

end Deframer

/-! ### A turn of the driver, on the sequence -/

/-- What a turn of the driver makes of `asm_state` and a buffer, with d for the traces before it (R141 to R145): from
`asm_state` and buffer before to `asm_state`, traces and buffer after. -/
inductive DriverTurn (ready : Bool) (d : Deframer) : AsmState → List Byte → AsmState → Deframer → List Byte → Prop
  | waits {a buf} (h : a = .idle ∨ (a = .dispatch ∧ ready = false)) : DriverTurn ready d a buf a d buf
  | skips {buf} (h : Config.start ∉ buf) : DriverTurn ready d .scanning buf .idle d []
  | aligns {g m} (h : Config.start ∉ g) :
      DriverTurn ready d .scanning (g ++ Config.start :: m) .collecting d (Config.start :: m)
  | bounds {buf} (h : Config.stop ∈ buf.drop 1) : DriverTurn ready d .collecting buf .decoding d buf
  | overflows {m} (h : Config.stop ∉ m) (hfull : m.length + 1 = Config.capacity) :
      DriverTurn ready d .collecting (Config.start :: m) .scanning
        ⟨d.frames, d.events ++ [⟨.bufferOverflow, Config.capacity⟩], none⟩ []
  | pauses {m} (h : Config.stop ∉ m) (hroom : m.length + 1 < Config.capacity) :
      DriverTurn ready d .collecting (Config.start :: m) .idle d (Config.start :: m)
  | judges {buf a} (h : a = .dispatch ∨ a = .discard) : DriverTurn ready d .decoding buf a d buf
  | takes {a span rest} (h : a = .dispatch ∨ a = .discard) (hs : Config.stop ∉ span) :
      DriverTurn ready d a (Config.start :: (span ++ Config.stop :: rest)) .scanning (d.close span) rest

/-- The turns until Idle over a buffer of n bytes, no byte arriving and every dispatch answered: four for each frame of
at least two bytes, and two more to find that there is none left (R194). -/
def turnsLeft (a : AsmState) (n : Nat) : Nat :=
  match a with
  | .idle => 0
  | .scanning => 4 * (n / 2) + 2
  | .collecting => 4 * (n / 2) + 1
  | .decoding => 4 * (n / 2) - 2 + 2
  | .dispatch => 4 * (n / 2) - 2 + 1
  | .discard => 4 * (n / 2) - 2 + 1

theorem turnsLeft_le {m n : Nat} (h : m ≤ n) (a : AsmState) : turnsLeft a m ≤ 4 * (n / 2) + 2 := by
  cases a <;> simp only [turnsLeft] <;> omega

/-- In every state but Idle a turn is left. -/
theorem eq_idle_of_turnsLeft_eq_zero {a : AsmState} {n : Nat} (h : turnsLeft a n = 0) : a = .idle := by
  cases a with
  | idle => rfl
  | scanning | collecting | decoding | dispatch | discard => cases h

namespace DriverTurn

variable {ready : Bool} {d d' : Deframer} {a a' : AsmState} {buf buf' : List Byte}

/-- A turn of the driver changes nothing of what the bytes in the buffer and those still to come amount to, as long as
the buffer is not full or nothing is to come. -/
theorem verdict_eq (h : DriverTurn ready d a buf a' d' buf') (hd : d.opened = none) {w : List Byte}
    (hw : buf.length < Config.capacity ∨ w = []) : d'.verdict (buf' ++ w) = d.verdict (buf ++ w) := by
  cases h with
  | waits | bounds | pauses | judges => rfl
  | skips h => rw [Deframer.verdict, Deframer.verdict, Deframer.feed_append, Deframer.feed_append,
      Deframer.feed_of_start_not_mem hd h, Deframer.feed_nil]
  | aligns h => rw [List.append_assoc, Deframer.verdict, Deframer.verdict, Deframer.feed_append d _ (_ ++ w),
      Deframer.feed_of_start_not_mem hd h]
  | overflows h hfull =>
    obtain rfl : w = [] := hw.resolve_left fun hlt => hlt.ne hfull
    rw [List.append_nil, List.append_nil, Deframer.verdict_of_full hd h hfull, Deframer.verdict_nil rfl]
  | takes _ hs => rw [List.cons_append, List.append_assoc, List.cons_append, Deframer.verdict, Deframer.verdict,
      Deframer.feed_frame hd hs]

theorem length_le (h : DriverTurn ready d a buf a' d' buf') : buf'.length ≤ buf.length := by
  cases h with
  | waits | bounds | pauses | judges => exact le_rfl
  | skips | overflows => exact Nat.zero_le _
  | aligns | takes => simp only [List.length_append, List.length_cons]; omega

/-- A turn with the host's answer brings Idle nearer, or is in Idle. -/
theorem turnsLeft_le_pred (h : DriverTurn true d a buf a' d' buf') :
    turnsLeft a' buf'.length ≤ turnsLeft a buf.length - 1 := by
  cases h with
  | waits h =>
    obtain rfl : a = .idle := h.resolve_right fun ⟨_, hr⟩ => Bool.noConfusion hr
    exact Nat.zero_le _
  | skips | pauses => exact Nat.zero_le _
  | aligns => simp only [turnsLeft, List.length_append, List.length_cons]; omega
  | bounds h =>
    have hpos := List.length_pos_of_mem h
    rw [List.length_drop] at hpos
    simp only [turnsLeft]; omega
  | overflows _ hfull => simp only [turnsLeft, List.length_cons, hfull]; decide
  | judges h => rcases h with rfl | rfl <;> exact le_rfl
  | takes h =>
    rcases h with rfl | rfl <;> simp only [turnsLeft, List.length_cons, List.length_append] <;> omega

/-- The turn that writes Idle leaves a quiescent buffer, and in Idle no turn changes it (R147). -/
theorem quiescentShape (h : DriverTurn ready d a buf a' d' buf') (hq : a ≠ .idle ∨ QuiescentShape buf) :
    a' ≠ .idle ∨ QuiescentShape buf' := by
  cases h with
  | waits => exact hq
  | skips => exact .inr (.inl rfl)
  | pauses h hroom => exact .inr (.inr ⟨rfl, h, hroom⟩)
  | judges h => rcases h with rfl | rfl <;> exact .inl nofun
  | aligns | bounds | overflows | takes => exact .inl nofun

end DriverTurn

/-! ### What a request leads to, whatever the host asks for afterwards -/

/-- The step of the request r takes s to t, whatever stands behind r in the script. -/
def Serves (s : State) (r : Request) (t : State) : Prop :=
  ∀ rest, step (s.setScript (r :: rest)) = .next (t.setScript rest)

/-- The script takes s to t, whatever stands behind it. -/
def LeadsTo (s : State) (script : List Request) (t : State) : Prop :=
  ∀ rest, s.runScript (script ++ rest) = t.runScript rest

variable {s t u : State} {buf : List Byte} {r : Request}

theorem serves_of_exec {i : Instr} (hd : decode s.asm r = .ok (i, none))
    (he : ∀ rest, exec i (s.setScript rest) = .next (t.setScript rest)) : Serves s r t := fun rest =>
  (step_of_decode_ok (s := s.setScript (r :: rest)) hd rfl).trans (he rest)

theorem Serves.run_succ (h : Serves s r t) (k : Nat) (rest : List Request) :
    Host.Core.run Sys2Proof.core (k + 1) (s.setScript (r :: rest)) =
      Host.Core.run Sys2Proof.core k (t.setScript rest) := run_succ_of_next (h rest)

theorem LeadsTo.nil (s : State) : LeadsTo s [] s := fun _ => rfl

theorem LeadsTo.cons {script : List Request} (h : Serves s r t) (h' : LeadsTo t script u) :
    LeadsTo s (r :: script) u := fun rest => (h.run_succ _ _).trans (h' rest)

theorem LeadsTo.append {one two : List Request} (h : LeadsTo s one t) (h' : LeadsTo t two u) :
    LeadsTo s (one ++ two) u := fun rest => by rw [List.append_assoc, h, h']

theorem LeadsTo.runScript_eq {script : List Request} (h : LeadsTo s script t) :
    s.runScript script = .next (t.setScript []) := by
  rw [← List.append_nil script, h]; rfl

/-! ### One rx transaction, one tick, one turn of the driver -/

theorem State.receive_setScript (s : State) (b : Byte) (rs : List Request) :
    (s.setScript rs).receive b = (s.receive b).setScript rs := by
  rcases Nat.lt_or_ge s.rxLen.toNat Config.capacity with h | h
  · rw [State.receive_of_lt b h, State.receive_of_lt (s := s.setScript rs) b h]; rfl
  · rw [State.receive_of_ge b h, State.receive_of_ge (s := s.setScript rs) b h]; rfl

theorem serves_rx (s : State) (b : Byte) : Serves s (.rx b) (s.receive b) :=
  serves_of_exec (i := .ingest b) rfl fun rest => congrArg Host.Outcome.next (s.receive_setScript b rest)

theorem leadsTo_feed (bytes : List Byte) : ∀ s : State, LeadsTo s (feedRequests bytes) (s.feed bytes) := by
  induction bytes with
  | nil => exact LeadsTo.nil
  | cons b l ih => exact fun s => .cons (serves_rx s b) (ih _)

theorem serves_tick_of_idle (h : s.asm = .idle) : Serves s .tick (s.newTransaction.goto .scanning) :=
  serves_of_exec (i := .tick) rfl fun rest => if_pos (c := (s.setScript rest).asm = .idle) h

/-- A tick while busy is ignored (R193). -/
theorem serves_tick_of_busy (h : s.asm ≠ .idle) : Serves s .tick s :=
  serves_of_exec (i := .tick) rfl fun rest => if_neg (c := (s.setScript rest).asm = .idle) h

theorem serves_driver_of_idle (h : s.asm = .idle) (ready : Bool) : Serves s (.driver ready) s := fun rest =>
  step_of_decode_error (s := s.setScript (.driver ready :: rest)) (e := .driverIdle) (fun _ h => Request.noConfusion h)
    (by rw [State.setScript_asm, h]; rfl) rfl

/-- The traces of the receive side, as a deframer between two frames. -/
def State.traces (s : State) : Deframer := ⟨s.dispTrace, s.evTrace, none⟩

/-- The frame in hand within the sequence (R12, R28). -/
theorem StopIdxOk.split (h : StopIdxOk s) (hb : s.Holds buf) : ∃ span rest,
    buf = Config.start :: (span ++ Config.stop :: rest) ∧ Config.stop ∉ span ∧ s.span = some span ∧
      s.inHand = span.length + 2 ∧ s.stopIdx.toNat < buf.length ∧ buf.drop (s.stopIdx.toNat + 1) = rest := by
  obtain ⟨hone, hlt, hstart, hstop, hfirst⟩ := h
  rw [hb.1] at hlt
  have hspan := hb.span_eq hone hlt.le
  simp only [hb.2] at hstart hstop hfirst
  unfold State.inHand
  generalize s.stopIdx.toNat = e at *
  obtain ⟨e, rfl⟩ := Nat.exists_eq_add_of_le' hone
  obtain ⟨m, rfl⟩ : ∃ m, buf = Config.start :: m := by
    rw [← List.head?_eq_getElem?] at hstart
    exact List.head?_eq_some_iff.mp hstart
  have hlt' : e < m.length := by simpa using hlt
  rw [List.getElem?_cons_succ, List.getElem?_eq_getElem hlt', Option.some.injEq] at hstop
  refine ⟨m.take e, m.drop (e + 1), ?_, fun hm => ?_, hspan, ?_, hlt, rfl⟩
  · rw [← hstop, ← List.drop_eq_getElem_cons hlt', List.take_append_drop]
  · obtain ⟨i, hi⟩ := List.mem_iff_getElem?.mp hm
    rw [List.getElem?_take] at hi
    split at hi
    · exact hfirst (i + 1) (by omega) (by omega) (by simpa using hi)
    · cases hi
  · rw [List.length_take, Nat.min_eq_left hlt'.le]

/-- The operation i, whatever the script, is a turn of the driver on the sequence that the buffer holds. -/
def ExecIsTurn (ready : Bool) (i : Instr) (s : State) (buf : List Byte) : Prop :=
  ∃ (t : State) (buf' : List Byte), (∀ rs, exec i (s.setScript rs) = .next (t.setScript rs)) ∧ t.Holds buf' ∧
    DriverTurn ready s.traces s.asm buf t.asm t.traces buf'

theorem ExecIsTurn.intro {ready : Bool} {i : Instr} {a : AsmState} {buf' : List Byte} (ha : s.asm = a)
    (he : ∀ rs, exec i (s.setScript rs) = .next (t.setScript rs)) (hb : t.Holds buf')
    (ht : DriverTurn ready s.traces a buf t.asm t.traces buf') : ExecIsTurn ready i s buf := ⟨t, buf', he, hb, ha ▸ ht⟩

theorem execIsTurn_aScan (ha : s.asm = .scanning) (hb : s.Holds buf) (ready : Bool) :
    ExecIsTurn ready .aScan s buf := by
  have hexec {k : Nat} (hk : (find buf Config.start 0).getD buf.length = k) (rs : List Request) :
      exec .aScan (s.setScript rs) = .next (((s.newTransaction.dropFront k).goto
        (if k = buf.length then .idle else .collecting)).setScript rs) :=
    execAScan_of_holds (s := s.setScript rs) ha hb hk
  have hdrop (k : Nat) (hk : k ≤ buf.length) : (s.newTransaction.dropFront k).Holds (buf.drop k) :=
    State.Holds.dropFront (s := s.newTransaction) hb k hk
  by_cases hm : Config.start ∈ buf
  · obtain ⟨g, m, rfl, hg⟩ := List.eq_append_cons_of_mem hm
    have hfind : find (g ++ Config.start :: m) Config.start 0 = some g.length := by
      refine find_of_first (Nat.zero_le _) (by simp) fun i _ hi hc => hg ?_
      rw [List.getElem?_append_left hi] at hc
      exact List.mem_of_getElem? hc
    refine .intro ha (hexec (k := g.length) (by rw [hfind, Option.getD_some])) (hdrop g.length (by simp)) ?_
    rw [List.drop_left, State.goto_asm, if_neg (by simp)]
    exact .aligns hg
  · refine .intro ha (hexec (k := buf.length) (by rw [find_of_not_mem hm, Option.getD_none])) (hdrop _ le_rfl) ?_
    rw [List.drop_length, State.goto_asm, if_pos rfl]
    exact .skips hm

theorem execIsTurn_aCollect (hi : FramerInv s) (ha : s.asm = .collecting) (hb : s.Holds buf) (ready : Bool) :
    ExecIsTurn ready .aCollect s buf := by
  cases hf : find buf Config.stop 1 with
  | some e =>
    obtain ⟨hone, hstop, -⟩ := find_eq_some hf
    obtain ⟨e, rfl⟩ := Nat.exists_eq_add_of_le hone
    rw [← List.getElem?_drop] at hstop
    exact .intro ha (t := (s.newTransaction.setStopIdx (1 + e)).goto .decoding)
      (fun rs => execACollect_of_stop (s := s.setScript rs) ha hb hf) hb (.bounds (List.mem_of_getElem? hstop))
  | none =>
    obtain ⟨m, rfl⟩ : ∃ m, buf = Config.start :: m := by
      have hstart := hi.collecting ha
      rw [hb.2, ← List.head?_eq_getElem?] at hstart
      exact List.head?_eq_some_iff.mp hstart
    have hm : Config.stop ∉ m := stop_not_mem_drop_of_find hf
    rcases (show (Config.start :: m).length ≤ Config.capacity from hb.1 ▸ hi.buffer.2).eq_or_lt with hfull | hroom
    · exact .intro ha
        (t := (s.newTransaction.resetBuf.raise .bufferOverflow Config.capacity).goto .scanning)
        (fun rs => execACollect_of_full (s := s.setScript rs) ha hb hf hfull) s.holds_resetBuf (.overflows hm hfull)
    · exact .intro ha (t := s.newTransaction.goto .idle)
        (fun rs => execACollect_of_room (s := s.setScript rs) ha hb hf hroom) hb (.pauses hm hroom)

theorem execIsTurn_aDecode (hi : FramerInv s) (ha : s.asm = .decoding) (hb : s.Holds buf) (ready : Bool) :
    ExecIsTurn ready .aDecode s buf := by
  obtain ⟨span, -, -, -, hspan, -⟩ := (hi.stopIdx (.inl ha)).split hb
  have hs (rs : List Request) : (s.setScript rs).span = some span := (s.span_setScript rs).trans hspan
  cases hd : decodeSpan span with
  | none =>
    exact .intro ha (t := (s.newTransaction.setRxErr 1).goto .discard)
      (fun rs => execADecode_of_none (s := s.setScript rs) ha (hs rs) hd) hb (.judges (.inr rfl))
  | some f =>
    by_cases hv : validates f = true
    · exact .intro ha (t := (s.newTransaction.setRxf f).goto .dispatch)
        (fun rs => execADecode_of_valid (s := s.setScript rs) ha (hs rs) hd hv) hb (.judges (.inl rfl))
    · exact .intro ha (t := (s.newTransaction.setRxErr 2).goto .discard)
        (fun rs => execADecode_of_invalid (s := s.setScript rs) ha (hs rs) hd hv) hb (.judges (.inr rfl))

/-- What A.DISPATCH hands over is what the deframer makes of the span (R144). -/
theorem FramerInv.close_of_dispatch (hi : FramerInv s) (ha : s.asm = .dispatch) {span : List Byte}
    (hs : s.span = some span) : s.traces.close span = (s.emitDispatch s.dispatched).traces := by
  obtain ⟨hvalid, span', hspan, hdecode⟩ := hi.dispatch ha
  obtain rfl := Option.some.inj (hs.symm.trans hspan)
  obtain ⟨-, -, hk⟩ := hvalid
  rw [Deframer.close_of_valid hdecode ((validates_iff _).mpr hk), State.dispatched_eq_rxf (hi.dispatch ha).1]
  rfl

/-- What A.DISCARD raises is what the deframer makes of the span (R145). -/
theorem FramerInv.close_of_discard (hi : FramerInv s) (ha : s.asm = .discard) {span : List Byte}
    (hs : s.span = some span) (hn : s.inHand = span.length + 2) :
    s.traces.close span = (s.raise s.latchedError s.inHand).traces := by
  obtain ⟨span', hspan, herr⟩ := hi.discard ha
  obtain rfl := Option.some.inj (hs.symm.trans hspan)
  rcases herr with ⟨h1, hdecode⟩ | ⟨h2, f, hdecode, hv⟩
  · rw [Deframer.close_of_none hdecode, hn, State.latchedError, if_pos h1]; rfl
  · rw [Deframer.close_of_invalid hdecode hv, hn, State.latchedError, h2]; rfl

theorem execIsTurn_aDispatch (hi : FramerInv s) (ha : s.asm = .dispatch) (hb : s.Holds buf) (ready : Bool) :
    ExecIsTurn ready (.aDispatch ready) s buf := by
  cases ready with
  | false =>
    have hwaits : DriverTurn false s.traces s.asm buf s.asm s.traces buf := .waits (.inr ⟨ha, rfl⟩)
    exact ⟨s, buf, fun rs => execADispatch_of_not_enabled fun h => Bool.noConfusion h.2, hb, hwaits⟩
  | true =>
    have hok := hi.stopIdx (.inr (.inl ha))
    obtain ⟨span, rest, hbuf, hs, hspan, -, hlt, hrest⟩ := hok.split hb
    refine .intro ha
      (t := ((s.newTransaction.emitDispatch s.dispatched).dropFront s.inHand).forgetDispatched.goto .scanning)
      (fun rs => execADispatch_of_le (s := s.setScript rs) ha hok.inHand_le) (hrest ▸ hb.dropFront_inHand hlt) ?_
    have htakes := DriverTurn.takes (ready := true) (d := s.traces) (a := .dispatch) (rest := rest) (.inl rfl) hs
    rw [hi.close_of_dispatch ha hspan, ← hbuf] at htakes
    exact htakes

theorem execIsTurn_aDiscard (hi : FramerInv s) (ha : s.asm = .discard) (hb : s.Holds buf) (ready : Bool) :
    ExecIsTurn ready .aDiscard s buf := by
  have hok := hi.stopIdx (.inr (.inr ha))
  obtain ⟨span, rest, hbuf, hs, hspan, hn, hlt, hrest⟩ := hok.split hb
  refine .intro ha
    (t := ((s.newTransaction.raise s.latchedError s.inHand).dropFront s.inHand).forgetDiscarded.goto .scanning)
    (fun rs => execADiscard_of_le (s := s.setScript rs) ha hok.inHand_le) (hrest ▸ hb.dropFront_inHand hlt) ?_
  have htakes := DriverTurn.takes (ready := ready) (d := s.traces) (a := .discard) (rest := rest) (.inr rfl) hs
  rw [hi.close_of_discard ha hspan hn, ← hbuf] at htakes
  exact htakes

/-- Every turn of the driver is one of those that `DriverTurn` lists, and leaves the invariant. -/
theorem driver_serves (hi : FramerInv s) (hb : s.Holds buf) (ready : Bool) : ∃ t buf',
    Serves s (.driver ready) t ∧ FramerInv t ∧ t.Holds buf' ∧
      DriverTurn ready s.traces s.asm buf t.asm t.traces buf' := by
  have serves {i : Instr} (hm : microOp s.asm ready = some i) (h : ExecIsTurn ready i s buf) : ∃ t buf',
      Serves s (.driver ready) t ∧ FramerInv t ∧ t.Holds buf' ∧
        DriverTurn ready s.traces s.asm buf t.asm t.traces buf' := by
    obtain ⟨t, buf', he, hb', ht⟩ := h
    have hd : decode s.asm (.driver ready) = .ok (i, none) := by simp only [decode, hm]
    exact ⟨t, buf', serves_of_exec hd he, (hi.of_exec (he s.script)).congr rfl rfl rfl rfl rfl rfl rfl, hb', ht⟩
  cases ha : s.asm with
  | idle => exact ⟨s, buf, serves_driver_of_idle ha ready, hi, hb, by rw [ha]; exact .waits (.inl rfl)⟩
  | scanning => exact ha ▸ serves (ha ▸ rfl) (execIsTurn_aScan ha hb ready)
  | collecting => exact ha ▸ serves (ha ▸ rfl) (execIsTurn_aCollect hi ha hb ready)
  | decoding => exact ha ▸ serves (ha ▸ rfl) (execIsTurn_aDecode hi ha hb ready)
  | dispatch => exact ha ▸ serves (ha ▸ rfl) (execIsTurn_aDispatch hi ha hb ready)
  | discard => exact ha ▸ serves (ha ▸ rfl) (execIsTurn_aDiscard hi ha hb ready)

/-! ### The end of a tick (R147, R194) -/

/-- s is quiescent, and its traces and its buffer are those of v. -/
structure Settled (s : State) (v : Deframer) : Prop where
  inv : FramerInv s
  idle : s.asm = .idle
  frames : s.dispTrace = v.frames
  events : s.evTrace = v.events
  residue : s.Holds v.residue

theorem settled_of_quiescent (hi : FramerInv s) (ha : s.asm = .idle) (hb : s.Holds buf) (hq : QuiescentShape buf) :
    Settled s (s.traces.verdict buf) := by
  obtain ⟨hframes, hevents, hresidue⟩ := Deframer.verdict_of_quiescent (d := s.traces) rfl hq
  exact ⟨hi, ha, hframes.symm, hevents.symm, by rwa [hresidue]⟩

/-- As many turns as are left lead to Idle, and a tick that they end leaves a quiescent buffer. -/
theorem turns_lead (k : Nat) : ∀ {s : State} {buf : List Byte}, FramerInv s → s.Holds buf →
    turnsLeft s.asm buf.length ≤ k → ∃ t buf', LeadsTo s (List.replicate k (.driver true)) t ∧ FramerInv t ∧
      t.asm = .idle ∧ t.Holds buf' ∧ buf'.length ≤ buf.length ∧
      t.traces.verdict buf' = s.traces.verdict buf ∧ (s.asm ≠ .idle ∨ QuiescentShape buf → QuiescentShape buf') := by
  induction k with
  | zero =>
    intro s buf hi hb hk
    have ha : s.asm = .idle := eq_idle_of_turnsLeft_eq_zero (Nat.le_zero.mp hk)
    exact ⟨s, buf, .nil s, hi, ha, hb, le_rfl, rfl, fun h => h.resolve_left fun hne => hne ha⟩
  | succ k ih =>
    intro s buf hi hb hk
    obtain ⟨t, buf', hserves, hit, hbt, hturn⟩ := driver_serves hi hb true
    have hturns := hturn.turnsLeft_le_pred
    obtain ⟨u, rest, hleads, hiu, hau, hbu, hlen, hverdict, hquiet⟩ := ih hit hbt (by omega)
    have hsame := hturn.verdict_eq (w := []) rfl (.inr rfl)
    rw [List.append_nil, List.append_nil] at hsame
    exact ⟨u, rest, .cons hserves hleads, hiu, hau, hbu, hlen.trans hturn.length_le, hverdict.trans hsame,
      fun hq => hquiet (hturn.quiescentShape hq)⟩

/-- A whole tick over a buffer of at most n bytes settles what the buffer comes to. -/
theorem tick_settles (hi : FramerInv s) (ha : s.asm = .idle) (hb : s.Holds buf) {n : Nat} (hn : buf.length ≤ n) :
    ∃ t, LeadsTo s (tickRequests n) t ∧ Settled t (s.traces.verdict buf) := by
  have hserves := serves_tick_of_idle ha
  have hi' : FramerInv (s.newTransaction.goto .scanning) :=
    .of_scanning_or_idle (hi.buffer.congr rfl rfl) (.inl rfl) hi.handed
  obtain ⟨t, rest, hleads, hit, hat, hbt, -, hverdict, hquiet⟩ :=
    turns_lead (s := s.newTransaction.goto .scanning) (4 * (n / 2) + 2) hi' hb (turnsLeft_le hn _)
  refine ⟨t, .cons hserves hleads, ?_⟩
  have hsettled := settled_of_quiescent hit hat hbt (hquiet (.inl nofun))
  rwa [hverdict] at hsettled

/-- The end of the tick in progress and one more tick settle what the buffer comes to. -/
theorem finishing_settles (hi : FramerInv s) (hb : s.Holds buf) {n : Nat} (hn : buf.length ≤ n) :
    ∃ t, LeadsTo s (finishingRequests n) t ∧ Settled t (s.traces.verdict buf) := by
  obtain ⟨t, buf', hleads, hit, hat, hbt, hlen, hverdict, -⟩ := turns_lead _ hi hb (turnsLeft_le hn _)
  obtain ⟨u, hleads', hsettled⟩ := tick_settles hit hat hbt (hlen.trans hn)
  exact ⟨u, hleads.append hleads', hverdict ▸ hsettled⟩

end Sys2Proof.Machine
end

section
/-! PROOFS. Runs of the receive side (R149): any schedule below CAPACITY settles what its bytes come to, and what a wire
frame among other bytes, or a START without a STOP, comes to. -/

namespace Sys2Proof.Machine

variable {s t : State} {buf : List Byte} {r : Request}

/-! ### Schedules below CAPACITY (R149 (a), (d)) -/

theorem filterMap_rxByte_cons (r : Request) (rest : List Request) :
    (r :: rest).filterMap rxByte = (rxByte r).toList ++ rest.filterMap rxByte := by
  cases h : rxByte r <;> simp [h]

/-- One request of a schedule, with room in the buffer: its byte, if it brings one, only moves from those still to come
into the buffer. -/
theorem receive_serves (hi : FramerInv s) (hb : s.Holds buf) (hroom : buf.length < Config.capacity)
    (hr : ReceiveRequest r) : ∃ t buf', Serves s r t ∧ FramerInv t ∧ t.Holds buf' ∧
      buf'.length ≤ buf.length + (rxByte r).toList.length ∧
      ∀ w, t.traces.verdict (buf' ++ w) = s.traces.verdict (buf ++ ((rxByte r).toList ++ w)) := by
  rcases hr with ⟨b, rfl⟩ | rfl | ⟨ready, rfl⟩
  · refine ⟨_, _, serves_rx s b, hi.receive b, hb.receive b hroom, by simp [rxByte], fun w => ?_⟩
    have htraces : (s.receive b).traces = s.traces := by rw [State.receive_of_lt b (hb.1 ▸ hroom)]; rfl
    rw [htraces, List.append_assoc]; rfl
  · by_cases ha : s.asm = .idle
    · exact ⟨_, buf, serves_tick_of_idle ha, hi.of_exec (i := .tick) (if_pos ha), hb, le_rfl, fun _ => rfl⟩
    · exact ⟨s, buf, serves_tick_of_busy ha, hi, hb, le_rfl, fun _ => rfl⟩
  · obtain ⟨t, buf', hserves, hit, hbt, hturn⟩ := driver_serves hi hb ready
    exact ⟨t, buf', hserves, hit, hbt, hturn.length_le, fun w => hturn.verdict_eq rfl (.inl hroom)⟩

theorem StaysBelowCapacity.rxLen_lt {script : List Request} (h : StaysBelowCapacity s script) :
    s.rxLen.toNat < Config.capacity := h 0 (s.setScript script) rfl

theorem StaysBelowCapacity.tail {rest : List Request} (h : StaysBelowCapacity s (r :: rest)) (hr : Serves s r t) :
    StaysBelowCapacity t rest := fun k u hu => h (k + 1) u ((hr.run_succ k rest).trans hu)

/-- A schedule below CAPACITY changes nothing of what its bytes come to. -/
theorem schedule_leads (schedule : List Request) : ∀ {s : State} {buf : List Byte}, FramerInv s → s.Holds buf →
    (∀ r ∈ schedule, ReceiveRequest r) → StaysBelowCapacity s schedule → ∃ t buf', LeadsTo s schedule t ∧
      FramerInv t ∧ t.Holds buf' ∧ buf'.length ≤ buf.length + (schedule.filterMap rxByte).length ∧
      t.traces.verdict buf' = s.traces.verdict (buf ++ schedule.filterMap rxByte) := by
  induction schedule with
  | nil => exact fun hi hb _ _ => ⟨_, _, .nil _, hi, hb, le_rfl, by simp⟩
  | cons r rest ih =>
    intro s buf hi hb hr hbelow
    obtain ⟨hfirst, hrest⟩ := List.forall_mem_cons.mp hr
    obtain ⟨t, buf', hserves, hit, hbt, hlen, hverdict⟩ := receive_serves hi hb (hb.1 ▸ hbelow.rxLen_lt) hfirst
    obtain ⟨u, buf'', hleads, hiu, hbu, hlen', hverdict'⟩ := ih hit hbt hrest (hbelow.tail hserves)
    rw [filterMap_rxByte_cons, List.length_append]
    exact ⟨u, buf'', .cons hserves hleads, hiu, hbu, by omega, hverdict'.trans (hverdict _)⟩

/-- Room in the buffer for all the bytes still to come, and none but receive-side requests in the script: what keeps a
schedule below CAPACITY. -/
def RoomForScript (s : State) : Prop :=
  FramerInv s ∧ (∀ r ∈ s.script, ReceiveRequest r) ∧
    s.rxLen.toNat + (s.script.filterMap rxByte).length < Config.capacity

theorem RoomForScript.of_step (h : RoomForScript s) (hs : step s = .next t) : RoomForScript t := by
  have ⟨hi, hr, hroom⟩ := h
  cases hscript : s.script with
  | nil => cases (step_of_script_nil hscript).symm.trans hs; exact h
  | cons r rest =>
    rw [hscript] at hr hroom
    obtain ⟨hfirst, hrest⟩ := List.forall_mem_cons.mp hr
    obtain ⟨buf, hb, -⟩ := hi.holds
    rw [filterMap_rxByte_cons, List.length_append, hb.1] at hroom
    obtain ⟨u, buf', hserves, hiu, hbu, hlen, -⟩ := receive_serves hi hb (by omega) hfirst
    have hstep : step s = .next (u.setScript rest) := by rw [← hserves rest, ← hscript]; rfl
    cases hstep.symm.trans hs
    exact ⟨hiu.congr rfl rfl rfl rfl rfl rfl rfl, hrest, by
      rw [State.setScript_rxLen, State.setScript_script, hbu.1]; omega⟩

theorem staysBelowCapacity_of_room {schedule : List Request} (hi : FramerInv s)
    (hr : ∀ r ∈ schedule, ReceiveRequest r)
    (hroom : s.rxLen.toNat + (schedule.filterMap rxByte).length < Config.capacity) :
    StaysBelowCapacity s schedule := by
  intro k t ht
  have h : RoomForScript (s.setScript schedule) := ⟨hi.congr rfl rfl rfl rfl rfl rfl rfl, hr, hroom⟩
  obtain ⟨-, -, hlt⟩ := run_induction (fun _ _ hu => hu.of_step) k h ht
  omega

/-- A schedule below CAPACITY from a quiescent machine with an empty buffer, and what ends it, settle what its bytes
come to. -/
theorem schedule_settles {schedule : List Request} (hq : QuiescentEmpty s) (hr : ∀ r ∈ schedule, ReceiveRequest r)
    (hbelow : StaysBelowCapacity s schedule) {n : Nat}
    (hn : (schedule.filterMap rxByte).length ≤ n ∨ Config.capacity ≤ n) :
    ∃ t, LeadsTo s (schedule ++ finishingRequests n) t ∧
      Settled t (s.traces.verdict (schedule.filterMap rxByte)) := by
  obtain ⟨hi, -, hempty⟩ := hq
  obtain ⟨t, buf, hleads, hit, hbt, hlen, hverdict⟩ :=
    schedule_leads schedule hi (State.holds_nil_of_rxLen hempty) hr hbelow
  have hcap : buf.length ≤ Config.capacity := hbt.1 ▸ hit.buffer.2
  rw [List.length_nil, Nat.zero_add] at hlen
  obtain ⟨u, hleads', hsettled⟩ := finishing_settles hit hbt (hn.elim hlen.trans hcap.trans)
  exact ⟨u, hleads.append hleads', hverdict ▸ hsettled⟩

theorem Settled.setScript {v : Deframer} (h : Settled s v) (rs : List Request) : Settled (s.setScript rs) v :=
  ⟨h.inv.congr rfl rfl rfl rfl rfl rfl rfl, h.idle, h.frames, h.events, h.residue⟩

/-- Settles O56: both schedules settle what the one sequence of bytes comes to. -/
theorem scheduleIndependence : Obligations.ScheduleIndependence := by
  intro s one two hq hone htwo hbytes hbelow hbelow'
  obtain ⟨t, hleads, ht⟩ := schedule_settles hq hone hbelow (.inr le_rfl)
  obtain ⟨u, hleads', hu⟩ := schedule_settles hq htwo hbelow' (.inr le_rfl)
  rw [← hbytes] at hu
  exact ⟨_, _, hleads.runScript_eq, hleads'.runScript_eq, ht.frames.trans hu.frames.symm,
    ht.events.trans hu.events.symm, ht.idle, hu.idle, _, (ht.setScript []).residue, (hu.setScript []).residue⟩

/-! ### A wire frame among other bytes (R149 (b)) -/

/-- The span of a Frame's encoding holds no STOP. -/
theorem stop_not_mem_spanOf_wireOf (f : Frame) : Config.stop ∉ spanOf (wireOf f) := by
  intro h
  obtain ⟨v, hv⟩ := eq_hexChar_of_mem_spanOf_wireOf h
  exact (hexChar_ne_marker v).2 hv.symm

theorem wireOf_eq_markers (f : Frame) : wireOf f = Config.start :: (spanOf (wireOf f) ++ [Config.stop]) := by
  rw [spanOf_wireOf, wireOf_eq]

/-- The encoding of a valid Frame comes to that Frame. -/
theorem Deframer.feed_wireOf {d : Deframer} (hd : d.opened = none) {f : Frame} (hf : ValidFrame f) :
    d.feed (wireOf f) = ⟨d.frames ++ [f], d.events, none⟩ := by
  have ⟨hmax, hargs, hk⟩ := hf
  rw [wireOf_eq_markers, Deframer.feed_frame hd (stop_not_mem_spanOf_wireOf f) [], Deframer.feed_nil,
    Deframer.close_of_valid (decodeSpan_of_spells (spells_spanOf_wireOf hmax hargs)) ((validates_iff f).mpr hk)]

/-- Bytes without a START before and after a frame come to nothing. -/
theorem Deframer.verdict_wireOf {d : Deframer} (hd : d.opened = none) {f : Frame} (hf : ValidFrame f)
    {g g' : List Byte} (hg : Config.start ∉ g) (hg' : Config.start ∉ g') :
    d.verdict (g ++ wireOf f ++ g') = ⟨d.frames ++ [f], d.events, none⟩ := by
  rw [Deframer.verdict, Deframer.feed_append, Deframer.feed_append, Deframer.feed_of_start_not_mem hd hg,
    Deframer.feed_wireOf hd hf, Deframer.feed_of_start_not_mem rfl hg', Deframer.settle_of_closed rfl]

theorem wireOf_of_encodeFrame {f : Frame} {w : List Byte} (hf : ValidFrame f) (hw : encodeFrame f = some w) :
    w = wireOf f := by
  obtain ⟨hmax, hargs, -⟩ := hf
  exact Option.some.inj (hw.symm.trans (encodeFrame_eq_wireOf hmax hargs))

theorem length_wireOf_le {f : Frame} (hf : ValidFrame f) : (wireOf f).length ≤ Config.maxWire := by
  obtain ⟨hmax, hargs, -⟩ := hf
  rw [length_wireOf, hargs, Config.maxWire]
  omega

/-- Settles O51: the schedule has room for its bytes, which come to the one Frame. -/
theorem fragmentationInvariance : Obligations.FragmentationInvariance := by
  intro s f w schedule hq hf hw hr hbytes
  obtain rfl := wireOf_of_encodeFrame hf hw
  have hroom : s.rxLen.toNat + (schedule.filterMap rxByte).length < Config.capacity := by
    obtain ⟨-, -, hempty⟩ := hq
    rw [hempty, hbytes]
    exact (Nat.zero_add _).trans_lt ((length_wireOf_le hf).trans_lt (by decide))
  obtain ⟨t, hleads, ht⟩ := schedule_settles hq hr (staysBelowCapacity_of_room hq.1 hr hroom)
    (.inl (congrArg List.length hbytes).le)
  have hverdict := Deframer.verdict_wireOf (d := s.traces) rfl hf (g := []) (g' := []) List.not_mem_nil List.not_mem_nil
  rw [List.nil_append, List.append_nil] at hverdict
  rw [hbytes, hverdict] at ht
  exact ⟨_, hleads.runScript_eq, ht.idle, (ht.setScript []).residue, ht.frames, ht.events⟩

/-- Bytes for which the buffer has room, and a tick, settle what the bytes come to. -/
theorem feed_tick_settles (hq : QuiescentEmpty s) {bytes : List Byte} (hroom : bytes.length ≤ Config.capacity) :
    ∃ t, LeadsTo s (feedRequests bytes ++ tickRequests bytes.length) t ∧ Settled t (s.traces.verdict bytes) := by
  obtain ⟨hi, ha, hempty⟩ := hq
  obtain ⟨hb, hev⟩ := (State.holds_nil_of_rxLen hempty).feed bytes ((Nat.zero_add _).trans_le hroom)
  obtain ⟨hasm, -, -, -, -, -, -, hdisp, -⟩ := s.feed_frame bytes
  obtain ⟨t, hleads, ht⟩ := tick_settles (hi.feed bytes) (hasm.trans ha) hb le_rfl
  have htraces : (s.feed bytes).traces = s.traces := by rw [State.traces, hdisp, hev, State.traces]
  rw [htraces] at ht
  exact ⟨t, (leadsTo_feed bytes s).append hleads, ht⟩

/-- Settles O52: the bytes around the frame hold no START, so they come to nothing. -/
theorem garbageTolerance : Obligations.GarbageTolerance := by
  intro s f w g g' hq hf hw hg _ hg' _ hroom
  obtain rfl := wireOf_of_encodeFrame hf hw
  obtain ⟨t, hleads, ht⟩ := feed_tick_settles hq hroom
  rw [Deframer.verdict_wireOf rfl hf hg hg'] at ht
  exact ⟨_, hleads.runScript_eq, ht.idle, (ht.setScript []).residue, ht.frames, ht.events⟩

/-! ### A START without a STOP (R149 (c), R213) -/

/-- At CAPACITY a run of rx transactions raises RxDrop for each byte and stores none (R190). -/
theorem State.feed_of_full (bytes : List Byte) : ∀ {s : State}, Config.capacity ≤ s.rxLen.toNat →
    (s.feed bytes).mem = s.mem ∧ (s.feed bytes).rxLen = s.rxLen ∧
      (s.feed bytes).evTrace = s.evTrace ++ bytes.map fun b => ⟨.rxDrop, b.toNat⟩ := by
  induction bytes with
  | nil => intro s _; exact ⟨rfl, rfl, (List.append_nil _).symm⟩
  | cons b l ih =>
    intro s h
    rw [State.feed_cons, State.receive_of_ge b h]
    obtain ⟨hmem, hlen, hev⟩ := ih (s := s.newTransaction.raise .rxDrop b.toNat) h
    exact ⟨hmem, hlen, by rw [hev]; simp⟩

/-- Bytes beyond CAPACITY are dropped: the buffer holds the first CAPACITY of them. -/
theorem feed_beyond_capacity (hempty : s.rxLen = 0) {kept dropped : List Byte} (hkept : kept.length = Config.capacity) :
    (s.feed (kept ++ dropped)).Holds kept ∧
      (s.feed (kept ++ dropped)).evTrace = s.evTrace ++ dropped.map fun b => ⟨.rxDrop, b.toNat⟩ := by
  obtain ⟨hb, hev⟩ := (State.holds_nil_of_rxLen hempty).feed kept ((Nat.zero_add _).trans_le hkept.le)
  rw [List.nil_append] at hb
  obtain ⟨hmem, hlen, hev'⟩ := State.feed_of_full dropped (s := s.feed kept) (by rw [hb.1, hkept])
  rw [State.feed_append]
  exact ⟨hb.congr hmem hlen, by rw [hev', hev]⟩

/-- The open frame that fills the buffer overflows at the tick. -/
theorem overflow_settles (hq : QuiescentEmpty s) {m dropped : List Byte} (hm : Config.stop ∉ m)
    (hfull : m.length + 1 = Config.capacity) :
    ∃ t, LeadsTo s (feedRequests (Config.start :: m ++ dropped) ++ tickRequests Config.capacity) t ∧
      Settled t ⟨s.dispTrace, s.evTrace ++ dropped.map (fun b => ⟨.rxDrop, b.toNat⟩)
        ++ [⟨.bufferOverflow, Config.capacity⟩], none⟩ := by
  obtain ⟨hi, ha, hempty⟩ := hq
  obtain ⟨hb, hev⟩ := feed_beyond_capacity hempty (kept := Config.start :: m) (dropped := dropped) hfull
  obtain ⟨hasm, -, -, -, -, -, -, hdisp, -⟩ := s.feed_frame (Config.start :: m ++ dropped)
  obtain ⟨t, hleads, ht⟩ := tick_settles (hi.feed _) (hasm.trans ha) hb hfull.le
  rw [Deframer.verdict_of_full rfl hm hfull, State.traces, hdisp, hev] at ht
  exact ⟨t, (leadsTo_feed _ s).append hleads, ht⟩

/-- Settles O53: what the buffer keeps is an open frame that fills it; after the tick the buffer is empty, and the
frame that follows is one with no bytes around it. -/
theorem overflowContainment : Obligations.OverflowContainment := by
  intro s f w m hq hf hw hstop hlong
  have hkept : Config.stop ∉ m.take (Config.capacity - 1) := fun h => hstop (List.mem_of_mem_take h)
  have hfull : (m.take (Config.capacity - 1)).length + 1 = Config.capacity := by
    rw [List.length_take, Nat.min_eq_left (by omega)]; rfl
  obtain ⟨t, hleads, ht⟩ := overflow_settles hq (dropped := m.drop (Config.capacity - 1)) hkept hfull
  rw [List.cons_append, List.take_append_drop] at hleads
  have ht' := ht.setScript []
  have hq' : QuiescentEmpty (t.setScript []) := ⟨ht'.inv, ht'.idle, ht'.residue.rxLen_eq⟩
  have hroom : ([] ++ w ++ []).length ≤ Config.capacity := by
    rw [List.nil_append, List.append_nil, wireOf_of_encodeFrame hf hw]
    exact (length_wireOf_le hf).trans (by decide)
  obtain ⟨u, hrun, hidle, hholds, hdisp, hev⟩ := garbageTolerance _ f w [] [] hq' hf hw List.not_mem_nil
    List.not_mem_nil List.not_mem_nil List.not_mem_nil hroom
  rw [List.nil_append, List.append_nil] at hrun
  exact ⟨_, u, hleads.runScript_eq, ht'.idle, ht'.residue, ht'.frames, ht'.events, hrun, hidle, hholds,
    hdisp.trans (congrArg (· ++ [f]) ht'.frames), hev⟩

end Sys2Proof.Machine
end

section
/-! PROOFS. TransmitPath (R170, R171, R176): what SEND_FRAME and SEND_BUFFER answer, and that a frame sent by one machine
is dispatched by another. -/

namespace Sys2Proof.Machine

variable {s t : State} {c : Byte} {n : ArgCount} {args : ArgPort}

/-! ### The frame SEND_FRAME latches (R87, R170) -/

@[simp] theorem length_portArgs (args : ArgPort) (n : Nat) : (portArgs args n).length = n := by simp [portArgs]

theorem getElem?_portArgs (args : ArgPort) {i n : Nat} (h : i < n) :
    (portArgs args n)[i]? = some (args.extractLsb' (8 * i) 8) := by
  simp [portArgs, argByte, h]

theorem validFrame_txFrame (h : n.toNat ≤ Config.maxArgs) : ValidFrame (txFrame c n args) :=
  ⟨h, length_portArgs args n.toNat, rfl⟩

theorem encodeFrame_txFrame (h : n.toNat ≤ Config.maxArgs) :
    encodeFrame (txFrame c n args) = some (wireOf (txFrame c n args)) :=
  encodeFrame_eq_wireOf h (length_portArgs args n.toNat)

/-! ### SEND_FRAME (R170, R172) and SEND_BUFFER (R171, R251) -/

theorem execSendFrame_of_open (hr : s.rawOpen = true) :
    execSendFrame c n args s = .next (s.setScript (s.script ++ [.txf c n args])) := if_pos hr

theorem execSendFrame_of_gt (hr : s.rawOpen = false) (hn : Config.maxArgs < n.toNat) :
    execSendFrame c n args s = .next (s.newTransaction.raise .encodeError n.toNat) := by
  have he : encodeFrame (txFrame c n args) = none := encodeFrame_eq_none.mpr hn
  simp [execSendFrame, hr, he]

theorem execSendFrame_of_le (hr : s.rawOpen = false) (hn : n.toNat ≤ Config.maxArgs) : execSendFrame c n args s =
    .next ((s.newTransaction.setTxf (txFrame c n args)).emitTx (wireOf (txFrame c n args))) := by
  simp [execSendFrame, hr, encodeFrame_txFrame hn]

theorem execSendBuffer_of_ne_nil {m : List Byte} (hm : m ≠ []) (last : Bool) (s : State) :
    execSendBuffer m last s = .next ((s.newTransaction.emitTx m).setRawOpen (!last)) := if_neg hm

theorem execSendBuffer_nil (last : Bool) (s : State) : execSendBuffer [] last s = .next s := if_pos rfl

/-- Settles O30: the run's bytes are the only ones at the sink, and an empty run is no transaction. -/
theorem sendBufferWritesVerbatim : Obligations.SendBufferWritesVerbatim := fun _ last s =>
  ⟨fun hm => execSendBuffer_of_ne_nil hm last s, execSendBuffer_nil last s⟩

/-- Settles O28, a case for a frame that ENCODE accepts and for one with too many arguments. -/
theorem sendFrameWritesOneFrame : Obligations.SendFrameWritesOneFrame := by
  intro c n args s hr
  rcases Nat.lt_or_ge Config.maxArgs n.toNat with hgt | hle
  · exact ⟨_, execSendFrame_of_gt hr hgt, fun hle => absurd hgt hle.not_gt,
      fun _ => ⟨rfl, rfl, rfl, rfl, (by decide : (0 : BitVec 5) ||| ErrorName.encodeError.pulse = 0b10000)⟩,
      hr, ⟨rfl, rfl, rfl, rfl, rfl, rfl⟩, rfl, rfl, rfl, rfl⟩
  · have hlen : (wireOf (txFrame c n args)).length = 2 * (n.toNat + 3) + 2 := by
      rw [length_wireOf, show (txFrame c n args).args.length = n.toNat from length_portArgs args n.toNat]
    exact ⟨_, execSendFrame_of_le hr hle, fun _ => ⟨_, rfl, rfl, length_portArgs args n.toNat,
        fun _ hi => getElem?_portArgs args hi, rfl, encodeFrame_txFrame hle, hlen, rfl, rfl, rfl, rfl⟩,
      fun hgt => absurd hgt hle.not_gt, hr, ⟨rfl, rfl, rfl, rfl, rfl, rfl⟩, rfl, rfl, rfl, rfl⟩

/-! ### From one machine to another (R176) -/

/-- The encoding of a valid Frame, fed to a quiescent machine with an empty buffer and ticked, is dispatched. -/
theorem feed_wireOf_settles (hq : QuiescentEmpty s) {f : Frame} (hf : ValidFrame f) :
    ∃ t, LeadsTo s (feedRequests (wireOf f) ++ tickRequests (wireOf f).length) t ∧
      Settled t ⟨s.dispTrace ++ [f], s.evTrace, none⟩ := by
  obtain ⟨t, hleads, ht⟩ := feed_tick_settles hq ((length_wireOf_le hf).trans (by decide))
  rw [Deframer.verdict, Deframer.feed_wireOf rfl hf, Deframer.settle_of_closed rfl] at ht
  exact ⟨t, hleads, ht⟩

/-- Settles O55: what SEND_FRAME writes is the encoding of a valid Frame. -/
theorem endToEndDelivery : Obligations.EndToEndDelivery := by
  intro a b c n args hr hn hq
  obtain ⟨b', hleads, hb⟩ := feed_wireOf_settles hq (validFrame_txFrame (c := c) (args := args) hn)
  exact ⟨_, wireOf (txFrame c n args), _, txFrame c n args, execSendFrame_of_le hr hn, rfl, rfl, hleads.runScript_eq,
    hb.idle, (hb.setScript []).residue, hb.frames, hb.events, rfl, rfl, length_portArgs args n.toNat,
    fun _ hi => getElem?_portArgs args hi, rfl⟩

end Sys2Proof.Machine
end

section
/-! PROOFS. The transmit side and the receive side do not touch each other (R175): SEND_FRAME and SEND_BUFFER write and
read the one, every other operation but RESET the other. -/

namespace Sys2Proof.Machine

variable {s t : State}

/-! ### The transmit side writes and reads itself only (R175) -/

theorem SameReceive.refl (s : State) : SameReceive s s := ⟨rfl, rfl, rfl, rfl, rfl, rfl⟩

theorem SameTransmit.refl (s : State) : SameTransmit s s := ⟨rfl, rfl, rfl⟩

/-- The transmit operations: SEND_FRAME and SEND_BUFFER. -/
def IsTransmit (i : Instr) : Prop := (∃ c n a, i = .sendFrame c n a) ∨ ∃ m l, i = .sendBuffer m l

theorem IsTransmit.exec_frame {i : Instr} (hi : IsTransmit i) (he : exec i s = .next t) :
    SameReceive s t ∧ t.dispTrace = s.dispTrace := by
  rcases hi with ⟨c, n, args, rfl⟩ | ⟨m, last, rfl⟩
  · rcases execSendFrame_cases he with ⟨-, rfl⟩ | ⟨-, -, rfl⟩ | ⟨-, -, w, -, rfl⟩
    all_goals exact ⟨.refl _, rfl⟩
  · rcases execSendBuffer_cases he with ⟨-, rfl⟩ | ⟨-, rfl⟩
    all_goals exact ⟨.refl _, rfl⟩

/-- What a transmit operation makes of the transmit side depends on the transmit side alone. -/
theorem IsTransmit.exec_congr {i : Instr} (hi : IsTransmit i) (he : exec i s = .next t) {s' : State}
    (hs : SameTransmit s s') : ∃ t', exec i s' = .next t' ∧ SameTransmit t t' := by
  obtain ⟨htxf, hraw, hstream⟩ := hs
  rcases hi with ⟨c, n, args, rfl⟩ | ⟨m, last, rfl⟩
  · rcases execSendFrame_cases he with ⟨hr, rfl⟩ | ⟨hr, hn, rfl⟩ | ⟨hr, hn, w, hw, rfl⟩
    · exact ⟨_, execSendFrame_of_open (hraw.trans hr), htxf, hraw, hstream⟩
    · exact ⟨_, execSendFrame_of_gt (hraw.trans hr) hn, htxf, hraw, hstream⟩
    · obtain rfl := Option.some.inj (hw.symm.trans (encodeFrame_txFrame hn))
      exact ⟨_, execSendFrame_of_le (hraw.trans hr) hn, rfl, hraw, congrArg (· ++ _) hstream⟩
  · rcases execSendBuffer_cases he with ⟨rfl, rfl⟩ | ⟨hm, rfl⟩
    · exact ⟨_, execSendBuffer_nil last s', htxf, hraw, hstream⟩
    · exact ⟨_, execSendBuffer_of_ne_nil hm last s', htxf, rfl, congrArg (· ++ m) hstream⟩

/-! ### What can be read of the buffer (R51, R142) -/

theorem State.memRead_of_readRange : ∀ {n i : Nat} {l : List Byte}, s.readRange i n = some l →
    ∀ j, j < n → s.memRead (i + j) = l[j]? := by
  intro n
  induction n with
  | zero => intro i l _ j hj; exact absurd hj j.not_lt_zero
  | succ n ih =>
    intro i l h j hj
    simp only [State.readRange] at h
    split at h
    · rename_i b rest hb hrest
      obtain rfl := Option.some.inj h
      cases j with
      | zero => exact hb
      | succ j => rw [List.getElem?_cons_succ, ← ih hrest j (by omega)]; congr 1; omega
    · cases h

/-- Where the buffer can be read as a sequence, it holds that sequence. -/
theorem State.holds_of_buffer {buf : List Byte} (h : s.buffer = some buf) : s.Holds buf := by
  have hlen : buf.length = s.rxLen.toNat := State.readRange_length h
  refine ⟨hlen.symm, fun i => ?_⟩
  rcases Nat.lt_or_ge i s.rxLen.toNat with hi | hi
  · rw [← State.memRead_of_readRange h i hi, Nat.zero_add]
  · rw [s.memRead_none hi, List.getElem?_eq_none (hlen.trans_le hi)]

/-- A.COLLECT without a STOP from any buffer that is not full, one above CAPACITY among them. -/
theorem execACollect_of_not_full {buf : List Byte} (ha : s.asm = .collecting) (hb : s.Holds buf)
    (hf : find buf Config.stop 1 = none) (hroom : buf.length ≠ Config.capacity) :
    execACollect s = .next (s.newTransaction.goto .idle) := by
  simp only [execACollect, if_pos ha, State.buffer_of_holds hb, hf, hb.1, if_neg hroom]

/-! ### Acting on the receive side only (R175) -/

/-- The receive side and the count of free values of a state, all else as after reset. -/
def State.receiveSide (s : State) : State :=
  { State.reset with mem := s.mem, rxLen := s.rxLen, asm := s.asm, stopIdx := s.stopIdx, rxErr := s.rxErr, rxf := s.rxf,
                     freeCount := s.freeCount }

/-- Two states agree on the receive side and on the count of free values. -/
def SameReceiveSide (s t : State) : Prop := t.receiveSide = s.receiveSide

theorem sameReceiveSide_iff : SameReceiveSide s t ↔ SameReceive s t ∧ t.freeCount = s.freeCount := by
  simp [SameReceiveSide, State.receiveSide, SameReceive, and_assoc]

namespace SameReceiveSide

variable {s' : State} (h : SameReceiveSide s s')
include h

theorem asm_eq : s'.asm = s.asm := by
  obtain ⟨⟨-, -, hasm, -⟩, -⟩ := sameReceiveSide_iff.mp h
  exact hasm

theorem inHand_le (hk : s.inHand ≤ s.rxLen.toNat) : s'.inHand ≤ s'.rxLen.toNat := by
  obtain ⟨⟨-, hlen, -, hstop, -⟩, -⟩ := sameReceiveSide_iff.mp h
  rwa [State.inHand, hstop, hlen]

theorem holds {buf : List Byte} (hb : s.Holds buf) : s'.Holds buf := by
  obtain ⟨⟨hmem, hlen, -⟩, -⟩ := sameReceiveSide_iff.mp h
  exact hb.congr hmem hlen

theorem span_eq : s'.span = s.span := by
  obtain ⟨⟨hmem, hlen, -, hstop, -⟩, -⟩ := sameReceiveSide_iff.mp h
  exact State.span_congr hmem hlen hstop

end SameReceiveSide

/-- The operation, which takes s to t, leaves the transmit side, and it makes the same of the receive side from any
state with the same receive side. -/
def ActsOnReceiveSide (op : State → Host.Outcome State Fault Refusal) (s t : State) : Prop :=
  SameTransmit s t ∧ ∀ s', SameReceiveSide s s' → ∃ t', op s' = .next t' ∧ SameReceiveSide t t'

/-- Where the receive side decides that the operation makes the update F, it is enough to look at F. -/
theorem ActsOnReceiveSide.of_update {op : State → Host.Outcome State Fault Refusal} {F : State → State}
    (he : op s = .next t) (hop : ∀ u, SameReceiveSide s u → op u = .next (F u))
    (hF : ∀ u, SameTransmit u (F u) ∧ (F u.receiveSide).receiveSide = (F u).receiveSide) :
    ActsOnReceiveSide op s t := by
  cases he.symm.trans (hop s rfl)
  refine ⟨(hF s).1, fun s' hs => ⟨F s', hop s' hs, ?_⟩⟩
  rw [SameReceiveSide, ← (hF s').2, hs, (hF s).2]

/-! ### The micro-operations and TICK act on the receive side (R141 to R145, R191) -/

theorem ActsOnReceiveSide.of_execAScan (he : execAScan s = .next t) : ActsOnReceiveSide execAScan s t := by
  rcases execAScan_cases he with ⟨ha, -⟩ | ⟨ha, buf, _, hbuf, -⟩
  · exact .of_update he (fun _ hs => execAScan_of_not_enabled (hs.asm_eq ▸ ha)) fun _ => ⟨.refl _, rfl⟩
  · have hb := State.holds_of_buffer hbuf
    exact .of_update he (fun _ hs => execAScan_of_holds (hs.asm_eq.trans ha) (hs.holds hb) rfl)
      fun _ => ⟨.refl _, rfl⟩

theorem ActsOnReceiveSide.of_execACollect (he : execACollect s = .next t) : ActsOnReceiveSide execACollect s t := by
  rcases execACollect_cases he with ⟨ha, -⟩ | ⟨ha, buf, hbuf, hcase⟩
  · exact .of_update he (fun _ hs => execACollect_of_not_enabled (hs.asm_eq ▸ ha)) fun _ => ⟨.refl _, rfl⟩
  · have hb := State.holds_of_buffer hbuf
    rcases hcase with ⟨e, hf, -⟩ | ⟨hf, hfull, -⟩ | ⟨hf, hroom, -⟩
    · exact .of_update he (fun _ hs => execACollect_of_stop (hs.asm_eq.trans ha) (hs.holds hb) hf)
        fun _ => ⟨.refl _, rfl⟩
    · exact .of_update he (fun _ hs => execACollect_of_full (hs.asm_eq.trans ha) (hs.holds hb) hf (hb.1 ▸ hfull))
        fun _ => ⟨.refl _, rfl⟩
    · exact .of_update he (fun _ hs => execACollect_of_not_full (hs.asm_eq.trans ha) (hs.holds hb) hf (hb.1 ▸ hroom))
        fun _ => ⟨.refl _, rfl⟩

theorem ActsOnReceiveSide.of_execADecode (he : execADecode s = .next t) : ActsOnReceiveSide execADecode s t := by
  rcases execADecode_cases he with ⟨ha, -⟩ | ⟨ha, span, hspan, ⟨hd, -⟩ | ⟨f, hd, hv, -⟩ | ⟨f, hd, hv, -⟩⟩
  · exact .of_update he (fun _ hs => execADecode_of_not_enabled (hs.asm_eq ▸ ha)) fun _ => ⟨.refl _, rfl⟩
  · exact .of_update he (fun _ hs => execADecode_of_none (hs.asm_eq.trans ha) (hs.span_eq.trans hspan) hd)
      fun _ => ⟨.refl _, rfl⟩
  · exact .of_update he (fun _ hs => execADecode_of_valid (hs.asm_eq.trans ha) (hs.span_eq.trans hspan) hd hv)
      fun _ => ⟨.refl _, rfl⟩
  · have hv' : ¬ validates f = true := Bool.eq_false_iff.mp hv
    exact .of_update he (fun _ hs => execADecode_of_invalid (hs.asm_eq.trans ha) (hs.span_eq.trans hspan) hd hv')
      fun _ => ⟨.refl _, rfl⟩

theorem ActsOnReceiveSide.of_execADispatch {r : Bool} (he : execADispatch r s = .next t) :
    ActsOnReceiveSide (execADispatch r) s t := by
  rcases execADispatch_cases he with ⟨ha, -⟩ | ⟨ha, rfl, hk, -⟩
  · have hn : ¬ (s.asm = .dispatch ∧ r = true) := fun ⟨ha', hr⟩ => ha.elim (· ha') (by simp [hr])
    exact .of_update he (fun _ hs => execADispatch_of_not_enabled (hs.asm_eq ▸ hn)) fun _ => ⟨.refl _, rfl⟩
  · exact .of_update he (fun _ hs => execADispatch_of_le (hs.asm_eq.trans ha) (hs.inHand_le hk))
      fun _ => ⟨.refl _, rfl⟩

theorem ActsOnReceiveSide.of_execADiscard (he : execADiscard s = .next t) : ActsOnReceiveSide execADiscard s t := by
  rcases execADiscard_cases he with ⟨ha, -⟩ | ⟨ha, hk, -⟩
  · exact .of_update he (fun _ hs => execADiscard_of_not_enabled (hs.asm_eq ▸ ha)) fun _ => ⟨.refl _, rfl⟩
  · exact .of_update he (fun _ hs => execADiscard_of_le (hs.asm_eq.trans ha) (hs.inHand_le hk))
      fun _ => ⟨.refl _, rfl⟩

theorem ActsOnReceiveSide.of_execTick (he : execTick s = .next t) : ActsOnReceiveSide execTick s t := by
  rcases execTick_cases he with ⟨ha, -⟩ | ⟨ha, -⟩
  · exact .of_update he (fun _ hs => if_pos (hs.asm_eq.trans ha)) fun _ => ⟨.refl _, rfl⟩
  · exact .of_update he (fun _ hs => if_neg (hs.asm_eq ▸ ha)) fun _ => ⟨.refl _, rfl⟩

/-- A pure function answers, and its answer is on neither side (R110 to R115). -/
theorem ActsOnReceiveSide.of_fnCall (c : FnCall) (he : exec c.instr s = .next t) :
    ActsOnReceiveSide (exec c.instr) s t := by
  obtain ⟨r, hr⟩ := exec_fnCall c s
  cases hr.symm.trans he
  refine ⟨.refl s, fun s' hs => ?_⟩
  obtain ⟨r', hr'⟩ := exec_fnCall c s'
  exact ⟨s'.answer r', hr', hs⟩

/-! ### Bytes that arrive act on the receive side (R190) -/

theorem State.receiveSide_receive (s : State) (b : Byte) :
    (s.receiveSide.receive b).receiveSide = (s.receive b).receiveSide := by
  rcases Nat.lt_or_ge s.rxLen.toNat Config.capacity with hlt | hge
  · rw [State.receive_of_lt b hlt, State.receive_of_lt (s := s.receiveSide) b hlt]; rfl
  · rw [State.receive_of_ge b hge, State.receive_of_ge (s := s.receiveSide) b hge]; rfl

theorem State.receiveSide_feed (w : List Byte) : ∀ s : State,
    (s.receiveSide.feed w).receiveSide = (s.feed w).receiveSide := by
  induction w with
  | nil => intro s; rfl
  | cons b w ih => intro s; rw [State.feed_cons, ← ih, State.receiveSide_receive, ih, State.feed_cons]

theorem State.sameTransmit_feed (s : State) (w : List Byte) : SameTransmit s (s.feed w) := by
  obtain ⟨-, -, -, -, htxf, hraw, htx, -⟩ := s.feed_frame w
  exact ⟨htxf, hraw, htx⟩

theorem ActsOnReceiveSide.of_feed (w : List Byte) (s : State) :
    ActsOnReceiveSide (fun u => .next (u.feed w)) s (s.feed w) :=
  .of_update rfl (fun _ _ => rfl) fun u => ⟨u.sameTransmit_feed w, u.receiveSide_feed w⟩

/-- An answer about bytes that arrive is on neither side. -/
theorem ActsOnReceiveSide.of_feed_answer (w : List Byte) (r : FnResult) (s : State) :
    ActsOnReceiveSide (fun u => .next ((u.feed w).answer r)) s ((s.feed w).answer r) :=
  .of_update rfl (fun _ _ => rfl) fun u => ⟨u.sameTransmit_feed w, u.receiveSide_feed w⟩

/-! ### The two sides (R175) -/

/-- Every operation but SEND_FRAME, SEND_BUFFER and RESET acts on the receive side. -/
theorem ActsOnReceiveSide.of_exec {i : Instr} (hi : ¬ IsTransmit i) (hreset : i ≠ .reset) (he : exec i s = .next t) :
    ActsOnReceiveSide (exec i) s t := by
  cases i with
  | sendFrame c n a => exact absurd (.inl ⟨c, n, a, rfl⟩) hi
  | sendBuffer m last => exact absurd (.inr ⟨m, last, rfl⟩) hi
  | reset => exact absurd rfl hreset
  | aScan => exact .of_execAScan he
  | aCollect => exact .of_execACollect he
  | aDecode => exact .of_execADecode he
  | aDispatch r => exact .of_execADispatch he
  | aDiscard => exact .of_execADiscard he
  | tick => exact .of_execTick he
  | hexenc b => exact .of_fnCall (.hexenc b) he
  | hexdec h l => exact .of_fnCall (.hexdec h l) he
  | checksum c n a => exact .of_fnCall (.checksum c n a) he
  | encode f => exact .of_fnCall (.encode f) he
  | decode span => exact .of_fnCall (.decode span) he
  | validate f => exact .of_fnCall (.validate f) he
  | frame c n a k => cases he; exact .of_feed_answer _ _ s
  | ingest b => cases he; exact .of_feed [b] s
  | digit _ | start | stop | upper _ | lower _ | other _ => cases he; exact .of_feed_answer [_] _ s

/-- Settles O32: a transmit operation writes and reads the transmit side only, and every other operation but RESET
acts on the receive side. -/
theorem transmitAndReceiveAreIndependent : Obligations.TransmitAndReceiveAreIndependent := by
  refine ⟨fun i s t (hi : IsTransmit i) he => ?_, fun i s t hframe hbuffer hreset he => ?_⟩
  · obtain ⟨hreceive, hdisp⟩ := hi.exec_frame he
    exact ⟨hreceive, hdisp, fun s' => hi.exec_congr he⟩
  · have hi : ¬ IsTransmit i := fun h => h.elim (fun ⟨c, n, a, h⟩ => hframe c n a h) fun ⟨m, l, h⟩ => hbuffer m l h
    obtain ⟨htransmit, hcongr⟩ := ActsOnReceiveSide.of_exec hi hreset he
    refine ⟨htransmit, fun s' hs hfree => ?_⟩
    obtain ⟨t', he', ht'⟩ := hcongr s' (sameReceiveSide_iff.mpr ⟨hs, hfree⟩)
    exact ⟨t', he', (sameReceiveSide_iff.mp ht').1⟩

end Sys2Proof.Machine
end

section
/-! PROOFS. The Driver Loop (R190 to R194): INGEST, the start of a tick, a tick requested while busy, a tick with nothing
to do, and the end of every other tick within R194's bound. -/

namespace Sys2Proof.Machine

variable {s : State} {buf : List Byte}

/-! ### INGEST (R190) and the start of a tick (R191, R193) -/

/-- Settles O3: INGEST is one rx transaction, and an rx transaction leaves the last answer. -/
theorem ingestStoresOrDrops : Obligations.IngestStoresOrDrops := by
  intro s b
  obtain ⟨-, -, -, -, -, -, -, -, hanswer, -⟩ := s.receive_frame b
  exact ⟨s.receive b, rfl, received_receive s b, hanswer⟩

/-- `busy` = 1 exactly when `asm_state` ≠ Idle (R35). -/
theorem State.busy_iff (s : State) (rst v : Bool) : (s.outputs rst v).busy = true ↔ s.asm ≠ .idle := bne_iff_ne

/-- TICK.START (R191). -/
theorem execTick_of_idle (ha : s.asm = .idle) : execTick s = .next (s.newTransaction.goto .scanning) := if_pos ha

/-- Settles O33: TICK.START goes to Scanning, and `busy` tells Idle from every other state. -/
theorem tickStartsScanning : Obligations.TickStartsScanning := by
  intro s ha
  refine ⟨execTick_of_idle ha, ?_, fun t ht => ?_⟩
  · exact Bool.eq_false_iff.mpr fun hbusy => (s.busy_iff _ _).mp hbusy ha
  · obtain rfl : s.newTransaction.goto .scanning = t := Host.Outcome.next.inj ((execTick_of_idle ha).symm.trans ht)
    exact (State.busy_iff _ _ _).mpr nofun

/-- Settles O34: the request is served by leaving the state as it is. -/
theorem tickWhileBusyIsIgnored : Obligations.TickWhileBusyIsIgnored := by
  intro s rest ha hscript
  have hself : s.setScript (.tick :: rest) = s := by rw [← hscript]; rfl
  exact ⟨hself ▸ serves_tick_of_busy ha rest, (s.busy_iff _ _).mpr ha⟩

/-! ### A tick with nothing to do (R192) -/

/-- In a quiescent buffer there is nothing before the first START, and nothing at all where there is no START. -/
theorem find_start_of_quiescent (hq : QuiescentShape buf) : (find buf Config.start 0).getD buf.length = 0 := by
  rcases hq with rfl | ⟨hstart, -, -⟩
  · rfl
  · rw [find_of_first le_rfl (List.head?_eq_getElem?.symm.trans hstart) fun i _ hi => absurd hi i.not_lt_zero]
    rfl

/-- TICK.START and A.SCAN over a quiescent buffer remove nothing. -/
theorem tick_scan_leads (ha : s.asm = .idle) (hb : s.Holds buf) (hq : QuiescentShape buf) (r : Bool) :
    LeadsTo s [.tick, .driver r]
      ((s.newTransaction.dropFront 0).goto (if 0 = buf.length then .idle else .collecting)) :=
  .cons (serves_tick_of_idle ha) <| .cons (t := (s.newTransaction.dropFront 0).goto _)
    (serves_of_exec (i := .aScan) rfl fun rest =>
      execAScan_of_holds (s := (s.newTransaction.goto .scanning).setScript rest) rfl hb (find_start_of_quiescent hq))
    (.nil _)

/-- The next turn falls in Idle where the buffer is empty, and is A.COLLECT of a partial frame where it is not: Idle
either way. -/
theorem quiescent_tick_leads (ha : s.asm = .idle) (hb : s.Holds buf) (hq : QuiescentShape buf) (r r' : Bool) :
    LeadsTo s [.tick, .driver r, .driver r'] ((s.newTransaction.dropFront 0).goto .idle) := by
  refine (tick_scan_leads ha hb hq r).append (two := [.driver r']) (.cons ?_ (.nil _))
  have hbuf : (s.newTransaction.dropFront 0).Holds buf := hb.dropFront 0 buf.length.zero_le
  rcases hq with rfl | ⟨hstart, hstop, hroom⟩
  · exact serves_driver_of_idle rfl r'
  · have hne : 0 ≠ buf.length := fun h => by rw [List.length_eq_zero_iff.mp h.symm] at hstart; cases hstart
    rw [if_neg hne]
    exact serves_of_exec (i := .aCollect) rfl fun rest =>
      execACollect_of_room (s := ((s.newTransaction.dropFront 0).goto .collecting).setScript rest) rfl hbuf
        (find_of_not_mem hstop) hroom

/-- Settles O35: COMPACT(0) leaves the sequence, and no other register is written but `asm_state`. -/
theorem tickWithNothingToDoIsNoOp : Obligations.TickWithNothingToDoIsNoOp := by
  intro s buf r r' ha hb hq
  have hbuf : (s.newTransaction.dropFront 0).Holds buf := hb.dropFront 0 buf.length.zero_le
  exact ⟨_, (quiescent_tick_leads ha hb hq r r').runScript_eq, rfl, hbuf, rfl, rfl, rfl,
    ⟨rfl, rfl, rfl⟩, ⟨rfl, rfl⟩, rfl, rfl, rfl, rfl, rfl⟩

/-! ### The end of a tick within the bound (R148, R194) -/

namespace Deframer

variable {d : Deframer}

theorem residue_of_closed (h : d.opened = none) : d.residue = [] := by simp only [residue, h]

theorem residue_of_opened {span : List Byte} (h : d.opened = some span) : d.residue = Config.start :: span := by
  simp only [residue, h]

theorem close_opened (d : Deframer) (span : List Byte) : (d.close span).opened = none := by
  cases hs : decodeSpan span with
  | none => rw [close_of_none hs]
  | some f =>
    cases hv : validates f with
    | true => rw [close_of_valid hs hv]
    | false => rw [close_of_invalid hs hv]

/-- A byte is added to the bytes that stay, or is dropped alone, or ends them. -/
theorem residue_next_suffix (d : Deframer) (b : Byte) : (d.next b).residue <:+ d.residue ++ [b] := by
  cases hd : d.opened with
  | none =>
    by_cases hb : b = Config.start
    · rw [hb, next_start hd, residue_of_closed hd]
      exact List.suffix_rfl
    · rw [next, hd]
      simp only [if_neg hb, residue_of_closed hd, List.nil_suffix]
  | some span =>
    by_cases hb : b = Config.stop
    · rw [hb, next_stop hd, residue_of_closed (d.close_opened span)]
      exact List.nil_suffix
    · rw [next, hd]
      simp only [if_neg hb, residue_of_opened hd]
      exact List.suffix_rfl

/-- The bytes that stay are the last of those that came. -/
theorem residue_feed_suffix (w : List Byte) : ∀ d : Deframer, (d.feed w).residue <:+ d.residue ++ w := by
  induction w with
  | nil => intro d; rw [List.append_nil]; exact List.suffix_rfl
  | cons b w ih =>
    intro d
    obtain ⟨gone, hgone⟩ := d.residue_next_suffix b
    refine (ih (d.next b)).trans ⟨gone, ?_⟩
    rw [← List.append_assoc, hgone, List.append_assoc, List.singleton_append]

theorem residue_settle_suffix (d : Deframer) : d.settle.residue <:+ d.residue := by
  unfold settle
  split
  · exact List.suffix_rfl
  · split
    · exact List.nil_suffix
    · exact List.suffix_rfl

theorem residue_verdict_suffix (h : d.opened = none) (w : List Byte) : (d.verdict w).residue <:+ w := by
  have hfeed := d.residue_feed_suffix w
  rw [residue_of_closed h, List.nil_append] at hfeed
  exact (residue_settle_suffix _).trans hfeed

end Deframer

/-- Settles O36: the turns the bound allows lead to Idle over a quiescent buffer. Such a buffer is the deframer's own
residue of it, and no turn has changed what the deframer makes of the bytes. -/
theorem tickTerminatesInBound : Obligations.TickTerminatesInBound := by
  intro s buf hi ha hb
  have hscanning : FramerInv (s.newTransaction.goto .scanning) := hi.of_execTick (execTick_of_idle ha)
  obtain ⟨t, rest, hleads, -, hidle, hrest, -, hverdict, hquiet⟩ := turns_lead _ hscanning hb (turnsLeft_le le_rfl _)
  have hq : QuiescentShape rest := hquiet (.inl nofun)
  obtain ⟨-, -, hresidue⟩ := Deframer.verdict_of_quiescent (d := t.traces) rfl hq
  have hsuffix : rest <:+ buf := by
    rw [← hresidue, hverdict]
    exact Deframer.residue_verdict_suffix rfl buf
  exact ⟨t.setScript [], rest, (LeadsTo.cons (serves_tick_of_idle ha) hleads).runScript_eq, hidle, hrest, hq, hsuffix⟩

end Sys2Proof.Machine
end

section
/-! PROOFS. The errors (R210, R216): which operations raise one, for what cause, and what it leaves in `ev_trace` and
on the event lines. -/

namespace Sys2Proof.Machine

variable {s t : State} {i : Instr}

/-- The rows of R210: the operation that raises the error, the cause in the state before it, and the info. -/
def ErrorRow (i : Instr) (s : State) (e : ErrorName) (info : Nat) : Prop :=
  (e = .conversionError ∧ i = .aDiscard ∧ s.rxErr = 1 ∧ info = s.inHand) ∨
  (e = .checksumMismatch ∧ i = .aDiscard ∧ s.rxErr ≠ 1 ∧ info = s.inHand) ∨
  (e = .bufferOverflow ∧ i = .aCollect ∧ s.rxLen.toNat = Config.capacity ∧ info = Config.capacity) ∨
  (e = .rxDrop ∧ Config.capacity ≤ s.rxLen.toNat ∧ ∃ b : Byte, info = b.toNat ∧ (i = .ingest b ∨ i = decodeByte b)) ∨
  (e = .encodeError ∧ ∃ c n a, i = .sendFrame c n a ∧ Config.maxArgs < n.toNat ∧ info = n.toNat)

/-- From s to t one error is raised, by its row, and its line pulses alone (R210, R216 (d)). -/
def RaisedByRow (i : Instr) (s t : State) : Prop :=
  ∃ e info, t.evTrace = s.evTrace ++ [⟨e, info⟩] ∧ t.ev = e.pulse ∧ ErrorRow i s e info

/-! ### The operations that raise an error -/

/-- No line pulses when a transaction begins, so the first error of it pulses alone. -/
theorem raisedByRow_raise {e : ErrorName} {info : Nat} (h : ErrorRow i s e info) :
    RaisedByRow i s (s.newTransaction.raise e info) := ⟨e, info, rfl, BitVec.zero_or, h⟩

/-- The row is that of the error `rx_err` names (R145). -/
theorem errorRow_aDiscard (s : State) : ErrorRow .aDiscard s s.latchedError s.inHand := by
  by_cases h : s.rxErr = 1
  · exact .inl ⟨if_pos h, rfl, h, rfl⟩
  · exact .inr (.inl ⟨if_neg h, rfl, h, rfl⟩)

theorem raisedByRow_of_execADiscard (he : execADiscard s = .next t) (hne : t.evTrace ≠ s.evTrace) :
    RaisedByRow .aDiscard s t := by
  rcases execADiscard_cases he with ⟨-, rfl⟩ | ⟨-, -, rfl⟩
  · exact absurd rfl hne
  · exact raisedByRow_raise (errorRow_aDiscard s)

theorem raisedByRow_of_execACollect (he : execACollect s = .next t) (hne : t.evTrace ≠ s.evTrace) :
    RaisedByRow .aCollect s t := by
  rcases execACollect_cases he with ⟨-, rfl⟩ | ⟨-, buf, -, ⟨e, -, rfl⟩ | ⟨-, hfull, rfl⟩ | ⟨-, -, rfl⟩⟩
  · exact absurd rfl hne
  · exact absurd rfl hne
  · have hrow : ErrorRow .aCollect s .bufferOverflow Config.capacity := .inr (.inr (.inl ⟨rfl, rfl, hfull, rfl⟩))
    exact raisedByRow_raise hrow
  · exact absurd rfl hne

theorem raisedByRow_of_execSendFrame {c : Byte} {n : ArgCount} {a : ArgPort} (he : execSendFrame c n a s = .next t)
    (hne : t.evTrace ≠ s.evTrace) : RaisedByRow (.sendFrame c n a) s t := by
  rcases execSendFrame_cases he with ⟨-, rfl⟩ | ⟨-, hmax, rfl⟩ | ⟨-, -, w, -, rfl⟩
  · exact absurd rfl hne
  · exact raisedByRow_raise (.inr (.inr (.inr (.inr ⟨rfl, c, n, a, rfl, hmax, rfl⟩))))
  · exact absurd rfl hne

/-- An rx transaction raises RxDrop, and only at a full buffer (R190, R214). -/
theorem raisedByRow_receive {b : Byte} (hi : i = .ingest b ∨ i = decodeByte b)
    (hne : (s.receive b).evTrace ≠ s.evTrace) : RaisedByRow i s (s.receive b) := by
  rcases Nat.lt_or_ge s.rxLen.toNat Config.capacity with hroom | hfull
  · exact absurd (by rw [State.receive_of_lt b hroom]; rfl) hne
  · rw [State.receive_of_ge b hfull]
    exact raisedByRow_raise (.inr (.inr (.inr (.inl ⟨rfl, hfull, b, rfl, hi⟩))))

/-- The one byte that encodes an operation is read as that operation. -/
theorem eq_decodeByte_of_encode {b : Byte} (hw : WellFormed i) (hb : encode i = .wire [b]) : i = decodeByte b := by
  have hdecode := decodeOfEncodeIsTheOperation i hw
  rw [hb, decode_wire_byte rfl] at hdecode
  cases hdecode
  rfl

/-! ### The operations that raise none -/

theorem evTrace_of_execAScan (he : execAScan s = .next t) : t.evTrace = s.evTrace := by
  rcases execAScan_cases he with ⟨-, rfl⟩ | ⟨-, buf, k, -, -, -, ⟨-, rfl⟩ | ⟨-, rfl⟩⟩ <;> rfl

theorem evTrace_of_execADecode (he : execADecode s = .next t) : t.evTrace = s.evTrace := by
  rcases execADecode_cases he with ⟨-, rfl⟩ | ⟨-, span, -, ⟨-, rfl⟩ | ⟨f, -, -, rfl⟩ | ⟨f, -, -, rfl⟩⟩ <;> rfl

theorem evTrace_of_execADispatch {r : Bool} (he : execADispatch r s = .next t) : t.evTrace = s.evTrace := by
  rcases execADispatch_cases he with ⟨-, rfl⟩ | ⟨-, -, -, rfl⟩ <;> rfl

theorem evTrace_of_execSendBuffer {m : List Byte} {last : Bool} (he : execSendBuffer m last s = .next t) :
    t.evTrace = s.evTrace := by
  rcases execSendBuffer_cases he with ⟨-, rfl⟩ | ⟨-, rfl⟩ <;> rfl

theorem evTrace_of_execTick (he : execTick s = .next t) : t.evTrace = s.evTrace := by
  rcases execTick_cases he with ⟨-, rfl⟩ | ⟨-, rfl⟩ <;> rfl

/-- A pure function returns its error as a value (R111, R113 to R115). -/
theorem evTrace_of_fnCall (c : FnCall) (he : exec c.instr s = .next t) : t.evTrace = s.evTrace := by
  obtain ⟨r, hr⟩ := exec_fnCall c s
  cases hr.symm.trans he
  rfl

/-! ### Every operation but FRAME -/

theorem raisedByRow_of_exec (hw : WellFormed i) (hframe : ∀ c n a k, i ≠ .frame c n a k) (he : exec i s = .next t)
    (hne : t.evTrace ≠ s.evTrace) : RaisedByRow i s t := by
  have fn (c : FnCall) (hc : exec c.instr s = .next t) : RaisedByRow i s t := absurd (evTrace_of_fnCall c hc) hne
  cases i with
  | aDiscard => exact raisedByRow_of_execADiscard he hne
  | aCollect => exact raisedByRow_of_execACollect he hne
  | sendFrame c n a => exact raisedByRow_of_execSendFrame he hne
  | ingest b => cases he; exact raisedByRow_receive (.inl rfl) hne
  | digit _ | start | stop | upper _ | lower _ | other _ =>
    cases he
    exact raisedByRow_receive (.inr (eq_decodeByte_of_encode hw rfl)) hne
  | aScan => exact absurd (evTrace_of_execAScan he) hne
  | aDecode => exact absurd (evTrace_of_execADecode he) hne
  | aDispatch r => exact absurd (evTrace_of_execADispatch he) hne
  | sendBuffer m last => exact absurd (evTrace_of_execSendBuffer he) hne
  | tick => exact absurd (evTrace_of_execTick he) hne
  | reset => cases he; exact absurd rfl hne
  | hexenc b => exact fn (.hexenc b) he
  | hexdec h l => exact fn (.hexdec h l) he
  | checksum c n a => exact fn (.checksum c n a) he
  | encode f => exact fn (.encode f) he
  | decode span => exact fn (.decode span) he
  | validate f => exact fn (.validate f) he
  | frame c n a k => exact absurd rfl (hframe c n a k)

/-- Settles O39: an operation that adds to `ev_trace` is one of those that raise an error, and does so once, as the
first thing its transaction puts on the event lines. -/
theorem errorsAreRaisedByTheirRule : Obligations.ErrorsAreRaisedByTheirRule :=
  ⟨by decide, fun _ _ _ => raisedByRow_of_exec⟩

end Sys2Proof.Machine
end

section
/-! PROOFS. RESET (R240) and the hazards (R250 to R252): a stray START before a frame, a raw message that stays open, a
raw message sent byte by byte, and the order of the arguments under CHECKSUM. -/

namespace Sys2Proof.Machine

variable {s : State}

/-! ### A stray START before a frame (R250) -/

/-- DECODE accepts no span with a byte that is no hex digit: every byte of a spelled span stands in a pair (R114). -/
theorem decodeSpan_eq_none_of_mem {span : List Byte} {c : Byte} (hmem : c ∈ span) (hc : hexVal c = none) :
    decodeSpan span = none := by
  refine Option.eq_none_iff_forall_ne_some.mpr fun f hf => ?_
  obtain ⟨-, -, hlen, hpair⟩ := spells_iff_fieldBytes.mp (spells_of_decodeSpan hf)
  obtain ⟨i, hi, rfl⟩ := List.getElem_of_mem hmem
  have hj : i / 2 < (fieldBytes f).length := by omega
  have hval := hexVal_of_hexDecAt (List.getElem?_eq_getElem hi) ((hpair _ hj).trans (List.getElem?_eq_getElem hj))
  exact Option.some_ne_none _ (hval.symm.trans hc)

/-- START, bytes without STOP and a Frame's encoding are one span for the deframer, up to the Frame's STOP; the Frame's
own START is in it, so it does not decode. -/
theorem Deframer.verdict_strayStart {d : Deframer} (hd : d.opened = none) {g : List Byte} (hg : Config.stop ∉ g)
    (f : Frame) : d.verdict (Config.start :: (g ++ wireOf f)) =
      ⟨d.frames, d.events ++ [⟨.conversionError, (Config.start :: (g ++ wireOf f)).length⟩], none⟩ := by
  have hbytes : Config.start :: (g ++ wireOf f) =
      Config.start :: ((g ++ Config.start :: spanOf (wireOf f)) ++ Config.stop :: []) := by
    conv_lhs => rw [wireOf_eq_markers]
    simp
  have hstop : Config.stop ∉ g ++ Config.start :: spanOf (wireOf f) := by
    simp only [List.mem_append, List.mem_cons, not_or]
    exact ⟨hg, by decide, stop_not_mem_spanOf_wireOf f⟩
  have hdecode : decodeSpan (g ++ Config.start :: spanOf (wireOf f)) = none :=
    decodeSpan_eq_none_of_mem (c := Config.start) (by simp) (by decide)
  rw [hbytes, Deframer.verdict, Deframer.feed_frame hd hstop, Deframer.close_of_none hdecode, Deframer.feed_nil,
    Deframer.settle_of_closed rfl, List.length_cons, List.length_append (bs := [Config.stop]), List.length_singleton]

/-- Settles O54: all the bytes settle to the one ConversionError of the span that the stray START opens. -/
theorem strayStartLosesTheFrame : Obligations.StrayStartLosesTheFrame := by
  intro s f w g hq hf hw hg hroom
  obtain rfl := wireOf_of_encodeFrame hf hw
  obtain ⟨t, hleads, ht⟩ := feed_tick_settles hq hroom
  rw [Deframer.verdict_strayStart rfl hg] at ht
  exact ⟨_, hleads.runScript_eq, ht.idle, (ht.setScript []).residue, ht.frames, ht.events⟩

/-! ### The order of the arguments (R252) -/

/-- Settles O17: CHECKSUM is a fold by exclusive-or, which is commutative and associative. -/
theorem checksumIgnoresArgumentOrder : Obligations.ChecksumIgnoresArgumentOrder := by
  intro c n a b hperm
  rw [checksumOf_eq_foldl, checksumOf_eq_foldl, hperm.foldl_eq]

/-! ### A raw message that stays open (R251, R172) -/

/-- While a raw message is open a step over a script of SEND_FRAME requests only moves the first to the end. -/
theorem step_of_waiting_frames (hopen : s.rawOpen = true) (htxf : ∀ r ∈ s.script, ∃ c n a, r = .txf c n a) :
    ∃ rs, step s = .next (s.setScript rs) ∧ rs.Perm s.script := by
  cases hscript : s.script with
  | nil => exact ⟨[], by rw [step_of_script_nil hscript, ← hscript]; rfl, .refl _⟩
  | cons r rest =>
    obtain ⟨c, n, a, rfl⟩ := htxf r (hscript ▸ List.mem_cons_self)
    have hstep : step s = execSendFrame c n a (s.setScript rest) :=
      step_of_decode_ok (i := .sendFrame c n a) (left := none) rfl hscript
    exact ⟨rest ++ [.txf c n a], hstep.trans (execSendFrame_of_open (s := s.setScript rest) hopen),
      List.perm_append_singleton _ _⟩

/-- However many such steps there are, they only move requests in the script. -/
theorem run_of_waiting_frames (k : Nat) : ∀ {s : State}, s.rawOpen = true →
    (∀ r ∈ s.script, ∃ c n a, r = .txf c n a) →
    ∃ rs, Host.Core.run Sys2Proof.core k s = .next (s.setScript rs) ∧ rs.Perm s.script := by
  induction k with
  | zero => exact fun _ _ => ⟨_, rfl, .refl _⟩
  | succ k ih =>
    intro s hopen htxf
    obtain ⟨rs, hstep, hperm⟩ := step_of_waiting_frames hopen htxf
    obtain ⟨rs', hrun, hperm'⟩ := ih (s := s.setScript rs) hopen fun r hr => htxf r (hperm.mem_iff.mp hr)
    exact ⟨rs', (run_succ_of_next hstep).trans hrun, hperm'.trans hperm⟩

/-- Settles O29: SEND_FRAME waits, and a run of waiting requests changes the order of the script alone. -/
theorem openRawMessageBlocksFrames : Obligations.OpenRawMessageBlocksFrames := by
  refine ⟨fun c n args s hopen => ⟨by simp [State.outputs, hopen], execSendFrame_of_open hopen⟩,
    fun k s hopen htxf => ?_⟩
  obtain ⟨rs, hrun, hperm⟩ := run_of_waiting_frames k hopen htxf
  exact ⟨_, hrun, hopen, .refl s, .refl s, ⟨rfl, rfl⟩, hperm⟩

/-! ### A raw message byte by byte (R251) -/

/-- One run of txr transactions (R171). -/
theorem serves_txr (s : State) (b : Byte) (m : List Byte) (last : Bool) :
    Serves s (.txr (b :: m) last) ((s.newTransaction.emitTx (b :: m)).setRawOpen (!last)) :=
  serves_of_exec (i := .sendBuffer (b :: m) last) rfl fun _ => execSendBuffer_of_ne_nil (List.cons_ne_nil b m) last _

/-- A message sent byte by byte leads to what SEND_BUFFER of the whole makes, with the last byte alone at the sink. -/
theorem leadsTo_bytewise (m : List Byte) (b : Byte) : ∀ s : State,
    LeadsTo s (m.map (fun x => .txr [x] false) ++ [.txr [b] true])
      { (s.newTransaction.emitTx (m ++ [b])).setRawOpen false with txNow := [b] } := by
  induction m with
  | nil => exact fun s => .cons (serves_txr s b [] true) (.nil _)
  | cons x m ih =>
    intro s
    have hrest := ih ((s.newTransaction.emitTx [x]).setRawOpen true)
    have hstream : (s.txStream ++ [x]) ++ (m ++ [b]) = s.txStream ++ (x :: m ++ [b]) := by simp
    simp only [State.emitTx, State.newTransaction, State.setRawOpen, hstream] at hrest
    exact .cons (serves_txr s x [] false) hrest

theorem leadsTo_whole (m : List Byte) (b : Byte) (s : State) :
    LeadsTo s [.txr (m ++ [b]) true] ((s.newTransaction.emitTx (m ++ [b])).setRawOpen false) := by
  obtain ⟨x, l, hl⟩ := List.exists_cons_of_ne_nil (List.concat_ne_nil b m)
  rw [hl]
  exact .cons (serves_txr s x l true) (.nil _)

/-- Settles O31: both runs lead to the state that SEND_BUFFER of the whole message makes, but for the bytes at the
sink. -/
theorem bytewiseMessageEqualsWhole : Obligations.BytewiseMessageEqualsWhole := fun m b s =>
  ⟨((s.newTransaction.emitTx (m ++ [b])).setRawOpen false).setScript [], (leadsTo_bytewise m b s).runScript_eq,
    (leadsTo_whole m b s).runScript_eq, (List.append_assoc _ _ _).symm, rfl⟩

/-! ### RESET (R240) -/

/-- Settles O2: the values RESET writes, the one transaction of a sample under `rst`, and the outputs `rst` masks. -/
theorem resetEmptiesAndIdles : Obligations.ResetEmptiesAndIdles := by
  refine fun s => ⟨⟨_, rfl, rfl, rfl, fun i => State.memRead_none _ i.zero_le, rfl, rfl, rfl, rfl, rfl, rfl, rfl, rfl,
    rfl, rfl, rfl⟩, fun p hp => ?_, fun v => ⟨rfl, rfl, rfl, rfl⟩⟩
  rw [pinRequests, if_pos hp]

end Sys2Proof.Machine
end
